-- ==== Sys2Proof/Word.lean ====
section
/-! DEFINITION. The machine's word types (00_scope.md R3, R11). -/

namespace Sys2Proof

/-- A register value, the pc, a CSR value, an address: 32 bits (R3). -/
abbrev Word := BitVec 32

/-- The unit of memory (R44, R70). -/
abbrev Byte := BitVec 8

/-- What a fetch moves (R82). -/
abbrev Half := BitVec 16

/-- The retired-instruction counter and the timer (R3, R37, R531). -/
abbrev Dword := BitVec 64

/-- A general register number: the 5-bit fields `rd`, `rs1`, `rs2` (R14, R121). -/
abbrev RegIdx := BitVec 5

/-- A compressed register field, 3 bits naming `x8` to `x15` (R14, R136). -/
abbrev CReg := BitVec 3

/-- A CSR index, 12 bits unsigned (R38, R129). -/
abbrev CsrIdx := BitVec 12

/-- The width of a data access: 1, 2 or 4 bytes (R75, R87). -/
inductive Width where
  | byte
  | half
  | word
  deriving DecidableEq, Repr

end Sys2Proof
end

