-- ==== Sys2Proof/Syntax.lean ====
section
/-! DEFINITION. The instructions: one constructor for each row of opcode_table.json, with every operand field of the
row, the ignored ones too (R133 to R139), so that no bit of a word is dropped. Immediates hold the value the manual
assembles (R123 to R127, R138), before its extension to 32 bits. -/

namespace Sys2Proof

inductive Instr where
  -- 41_integer_computational.md
  /-- R200; `imm` is bits 31..12 of `immU`. -/
  | lui (rd : RegIdx) (imm : BitVec 20)
  /-- R201 -/
  | auipc (rd : RegIdx) (imm : BitVec 20)
  -- 42_control_transfer.md
  /-- R250; `off` is the 21-bit `immJ`, bit 0 zero. -/
  | jal (rd : RegIdx) (off : BitVec 21)
  /-- R251 -/
  | jalr (rd rs1 : RegIdx) (imm : BitVec 12)
  /-- R252; `off` is the 13-bit `immB`, bit 0 zero (all six branches). -/
  | beq (rs1 rs2 : RegIdx) (off : BitVec 13)
  | bne (rs1 rs2 : RegIdx) (off : BitVec 13)
  | blt (rs1 rs2 : RegIdx) (off : BitVec 13)
  | bge (rs1 rs2 : RegIdx) (off : BitVec 13)
  | bltu (rs1 rs2 : RegIdx) (off : BitVec 13)
  | bgeu (rs1 rs2 : RegIdx) (off : BitVec 13)
  -- 43_load_store.md
  | lb (rd rs1 : RegIdx) (imm : BitVec 12)
  | lh (rd rs1 : RegIdx) (imm : BitVec 12)
  | lw (rd rs1 : RegIdx) (imm : BitVec 12)
  | lbu (rd rs1 : RegIdx) (imm : BitVec 12)
  | lhu (rd rs1 : RegIdx) (imm : BitVec 12)
  | sb (rs1 rs2 : RegIdx) (imm : BitVec 12)
  | sh (rs1 rs2 : RegIdx) (imm : BitVec 12)
  | sw (rs1 rs2 : RegIdx) (imm : BitVec 12)
  -- 41_integer_computational.md, register-immediate
  | addi (rd rs1 : RegIdx) (imm : BitVec 12)
  | slti (rd rs1 : RegIdx) (imm : BitVec 12)
  | sltiu (rd rs1 : RegIdx) (imm : BitVec 12)
  | xori (rd rs1 : RegIdx) (imm : BitVec 12)
  | ori (rd rs1 : RegIdx) (imm : BitVec 12)
  | andi (rd rs1 : RegIdx) (imm : BitVec 12)
  | slli (rd rs1 : RegIdx) (shamt : BitVec 5)
  | srli (rd rs1 : RegIdx) (shamt : BitVec 5)
  | srai (rd rs1 : RegIdx) (shamt : BitVec 5)
  -- 41_integer_computational.md, register-register
  | add (rd rs1 rs2 : RegIdx)
  | sub (rd rs1 rs2 : RegIdx)
  | sll (rd rs1 rs2 : RegIdx)
  | slt (rd rs1 rs2 : RegIdx)
  | sltu (rd rs1 rs2 : RegIdx)
  | xor (rd rs1 rs2 : RegIdx)
  | srl (rd rs1 rs2 : RegIdx)
  | sra (rd rs1 rs2 : RegIdx)
  | or (rd rs1 rs2 : RegIdx)
  | and (rd rs1 rs2 : RegIdx)
  -- 44_muldiv.md
  | mul (rd rs1 rs2 : RegIdx)
  | mulh (rd rs1 rs2 : RegIdx)
  | mulhsu (rd rs1 rs2 : RegIdx)
  | mulhu (rd rs1 rs2 : RegIdx)
  | div (rd rs1 rs2 : RegIdx)
  | divu (rd rs1 rs2 : RegIdx)
  | rem (rd rs1 rs2 : RegIdx)
  | remu (rd rs1 rs2 : RegIdx)
  -- 46_system_csr.md
  /-- R370; every field is ignored. -/
  | fence (fm pred succ : BitVec 4) (rs1 rd : RegIdx)
  /-- R371; every field is ignored. -/
  | fenceI (imm : BitVec 12) (rs1 rd : RegIdx)
  | ecall
  | ebreak
  | csrrw (rd : RegIdx) (csr : CsrIdx) (rs1 : RegIdx)
  | csrrs (rd : RegIdx) (csr : CsrIdx) (rs1 : RegIdx)
  | csrrc (rd : RegIdx) (csr : CsrIdx) (rs1 : RegIdx)
  | csrrwi (rd : RegIdx) (csr : CsrIdx) (zimm : BitVec 5)
  | csrrsi (rd : RegIdx) (csr : CsrIdx) (zimm : BitVec 5)
  | csrrci (rd : RegIdx) (csr : CsrIdx) (zimm : BitVec 5)
  -- 45_atomic.md; `aq` and `rl` are ignored (R334)
  | lrW (rd rs1 : RegIdx) (aq rl : Bool)
  | scW (rd rs1 rs2 : RegIdx) (aq rl : Bool)
  | amoswapW (rd rs1 rs2 : RegIdx) (aq rl : Bool)
  | amoaddW (rd rs1 rs2 : RegIdx) (aq rl : Bool)
  | amoxorW (rd rs1 rs2 : RegIdx) (aq rl : Bool)
  | amoandW (rd rs1 rs2 : RegIdx) (aq rl : Bool)
  | amoorW (rd rs1 rs2 : RegIdx) (aq rl : Bool)
  | amominW (rd rs1 rs2 : RegIdx) (aq rl : Bool)
  | amomaxW (rd rs1 rs2 : RegIdx) (aq rl : Bool)
  | amominuW (rd rs1 rs2 : RegIdx) (aq rl : Bool)
  | amomaxuW (rd rs1 rs2 : RegIdx) (aq rl : Bool)
  -- 47_compressed.md
  /-- R411; `nzuimm` is `ciw_nzuimm`, a nonzero multiple of 4. -/
  | cAddi4spn (rd : CReg) (nzuimm : BitVec 10)
  /-- R412; `uimm` is `cl_uimm`, a multiple of 4. -/
  | cLw (rd rs1 : CReg) (uimm : BitVec 7)
  /-- R413 -/
  | cSw (rs1 rs2 : CReg) (uimm : BitVec 7)
  /-- R414 -/
  | cNop (imm : BitVec 6)
  /-- R415 -/
  | cAddi (rd : RegIdx) (imm : BitVec 6)
  /-- R416; `off` is `cj_off`, bit 0 zero. -/
  | cJal (off : BitVec 12)
  /-- R417 -/
  | cLi (rd : RegIdx) (imm : BitVec 6)
  /-- R418; `nzimm` is `ci_addi16sp`, a nonzero multiple of 16. -/
  | cAddi16sp (nzimm : BitVec 10)
  /-- R419; `imm` is `h[12] ++ h[6:2]`, nonzero. -/
  | cLui (rd : RegIdx) (imm : BitVec 6)
  /-- R420 -/
  | cSrli (rd : CReg) (shamt : BitVec 5)
  /-- R421 -/
  | cSrai (rd : CReg) (shamt : BitVec 5)
  /-- R422 -/
  | cAndi (rd : CReg) (imm : BitVec 6)
  /-- R423 -/
  | cSub (rd rs2 : CReg)
  /-- R424 -/
  | cXor (rd rs2 : CReg)
  /-- R425 -/
  | cOr (rd rs2 : CReg)
  /-- R426 -/
  | cAnd (rd rs2 : CReg)
  /-- R427 -/
  | cJ (off : BitVec 12)
  /-- R428; `off` is `cb_off`, bit 0 zero. -/
  | cBeqz (rs1 : CReg) (off : BitVec 9)
  /-- R429 -/
  | cBnez (rs1 : CReg) (off : BitVec 9)
  /-- R430 -/
  | cSlli (rd : RegIdx) (shamt : BitVec 5)
  /-- R431; `uimm` is `ci_lwsp`, a multiple of 4. -/
  | cLwsp (rd : RegIdx) (uimm : BitVec 8)
  /-- R432 -/
  | cJr (rs1 : RegIdx)
  /-- R433 -/
  | cMv (rd rs2 : RegIdx)
  /-- R434 -/
  | cEbreak
  /-- R435 -/
  | cJalr (rs1 : RegIdx)
  /-- R436 -/
  | cAdd (rd rs2 : RegIdx)
  /-- R437; `uimm` is `css_swsp`, a multiple of 4. -/
  | cSwsp (rs2 : RegIdx) (uimm : BitVec 8)
  deriving DecidableEq, Repr

end Sys2Proof
end

