-- ==== Sys2Proof/WellFormed.lean ====
section
/-! DEFINITION. Which instruction terms some word encodes: the zero low bits of the scaled immediates (R125, R127, R138)
and the conditions that make a compressed form legal (R411, R415, R418, R419, R431 to R436). -/

namespace Sys2Proof

/-- The low `k` bits of an immediate are zero. -/
def lowZero {n : Nat} (v : BitVec n) (k : Nat) : Bool := v.extractLsb' 0 k == 0#k

def Instr.wf : Instr → Bool
  | .lui _ _ => true
  | .auipc _ _ => true
  | .jal _ off => lowZero off 1
  | .jalr _ _ _ => true
  | .beq _ _ off => lowZero off 1
  | .bne _ _ off => lowZero off 1
  | .blt _ _ off => lowZero off 1
  | .bge _ _ off => lowZero off 1
  | .bltu _ _ off => lowZero off 1
  | .bgeu _ _ off => lowZero off 1
  | .lb _ _ _ => true
  | .lh _ _ _ => true
  | .lw _ _ _ => true
  | .lbu _ _ _ => true
  | .lhu _ _ _ => true
  | .sb _ _ _ => true
  | .sh _ _ _ => true
  | .sw _ _ _ => true
  | .addi _ _ _ => true
  | .slti _ _ _ => true
  | .sltiu _ _ _ => true
  | .xori _ _ _ => true
  | .ori _ _ _ => true
  | .andi _ _ _ => true
  | .slli _ _ _ => true
  | .srli _ _ _ => true
  | .srai _ _ _ => true
  | .add _ _ _ => true
  | .sub _ _ _ => true
  | .sll _ _ _ => true
  | .slt _ _ _ => true
  | .sltu _ _ _ => true
  | .xor _ _ _ => true
  | .srl _ _ _ => true
  | .sra _ _ _ => true
  | .or _ _ _ => true
  | .and _ _ _ => true
  | .mul _ _ _ => true
  | .mulh _ _ _ => true
  | .mulhsu _ _ _ => true
  | .mulhu _ _ _ => true
  | .div _ _ _ => true
  | .divu _ _ _ => true
  | .rem _ _ _ => true
  | .remu _ _ _ => true
  | .fence _ _ _ _ _ => true
  | .fenceI _ _ _ => true
  | .ecall => true
  | .ebreak => true
  | .csrrw _ _ _ => true
  | .csrrs _ _ _ => true
  | .csrrc _ _ _ => true
  | .csrrwi _ _ _ => true
  | .csrrsi _ _ _ => true
  | .csrrci _ _ _ => true
  | .lrW _ _ _ _ => true
  | .scW _ _ _ _ _ => true
  | .amoswapW _ _ _ _ _ => true
  | .amoaddW _ _ _ _ _ => true
  | .amoxorW _ _ _ _ _ => true
  | .amoandW _ _ _ _ _ => true
  | .amoorW _ _ _ _ _ => true
  | .amominW _ _ _ _ _ => true
  | .amomaxW _ _ _ _ _ => true
  | .amominuW _ _ _ _ _ => true
  | .amomaxuW _ _ _ _ _ => true
  | .cAddi4spn _ nzuimm => lowZero nzuimm 2 && nzuimm != 0#10
  | .cLw _ _ uimm => lowZero uimm 2
  | .cSw _ _ uimm => lowZero uimm 2
  | .cNop _ => true
  | .cAddi rd _ => rd != 0#5
  | .cJal off => lowZero off 1
  | .cLi _ _ => true
  | .cAddi16sp nzimm => lowZero nzimm 4 && nzimm != 0#10
  | .cLui rd imm => rd != 2#5 && imm != 0#6
  | .cSrli _ _ => true
  | .cSrai _ _ => true
  | .cAndi _ _ => true
  | .cSub _ _ => true
  | .cXor _ _ => true
  | .cOr _ _ => true
  | .cAnd _ _ => true
  | .cJ off => lowZero off 1
  | .cBeqz _ off => lowZero off 1
  | .cBnez _ off => lowZero off 1
  | .cSlli _ _ => true
  | .cLwsp rd uimm => lowZero uimm 2 && rd != 0#5
  | .cJr rs1 => rs1 != 0#5
  | .cMv _ rs2 => rs2 != 0#5
  | .cEbreak => true
  | .cJalr rs1 => rs1 != 0#5
  | .cAdd _ rs2 => rs2 != 0#5
  | .cSwsp _ uimm => lowZero uimm 2

end Sys2Proof
end

