-- ==== Sys2Proof/Decode.lean ====
section
/-! DEFINITION. The decoder, total on any bytes and rejecting by name, and after it the encoder
(30_encoding.md; 47_compressed.md). -/

namespace Sys2Proof

/-! ### Fields of a 32-bit word (R121) -/

/-- `w[6:0]` -/
def opcodeF (w : Word) : BitVec 7 := w.extractLsb' 0 7
/-- `w[11:7]` -/
def rdF (w : Word) : RegIdx := w.extractLsb' 7 5
/-- `w[14:12]` -/
def funct3F (w : Word) : BitVec 3 := w.extractLsb' 12 3
/-- `w[19:15]`; `zimm` in the immediate CSR forms (R129) -/
def rs1F (w : Word) : RegIdx := w.extractLsb' 15 5
/-- `w[24:20]`; `shamt` in the immediate shifts (R128) -/
def rs2F (w : Word) : RegIdx := w.extractLsb' 20 5
/-- `w[31:25]` -/
def funct7F (w : Word) : BitVec 7 := w.extractLsb' 25 7
/-- `w[31:27]` -/
def funct5F (w : Word) : BitVec 5 := w.extractLsb' 27 5
/-- `w[26]` -/
def aqF (w : Word) : Bool := w.getLsbD 26
/-- `w[25]` -/
def rlF (w : Word) : Bool := w.getLsbD 25
/-- `w[31:28]` -/
def fmF (w : Word) : BitVec 4 := w.extractLsb' 28 4
/-- `w[27:24]` -/
def predF (w : Word) : BitVec 4 := w.extractLsb' 24 4
/-- `w[23:20]` -/
def succF (w : Word) : BitVec 4 := w.extractLsb' 20 4

/-- The 12 bits of the I-immediate, `w[31:20]`; also the CSR index (R123, R129). -/
def immI (w : Word) : BitVec 12 := w.extractLsb' 20 12
/-- The 12 bits of the S-immediate (R124). -/
def immS (w : Word) : BitVec 12 := w.extractLsb' 25 7 ++ w.extractLsb' 7 5
/-- The 13 bits of the B-immediate (R125). -/
def immB (w : Word) : BitVec 13 :=
  w.extractLsb' 31 1 ++ w.extractLsb' 7 1 ++ w.extractLsb' 25 6 ++ w.extractLsb' 8 4 ++ 0#1
/-- Bits 31..12 of the U-immediate (R126). -/
def immU (w : Word) : BitVec 20 := w.extractLsb' 12 20
/-- The 21 bits of the J-immediate (R127). -/
def immJ (w : Word) : BitVec 21 :=
  w.extractLsb' 31 1 ++ w.extractLsb' 12 8 ++ w.extractLsb' 20 1 ++ w.extractLsb' 21 10 ++ 0#1

/-! ### 32-bit words (R131 to R134) -/

/-- BRANCH minor opcodes (R132). -/
def decodeBranch (w : Word) : Option Instr :=
  match funct3F w with
  | 0#3 => some (.beq (rs1F w) (rs2F w) (immB w))
  | 1#3 => some (.bne (rs1F w) (rs2F w) (immB w))
  | 4#3 => some (.blt (rs1F w) (rs2F w) (immB w))
  | 5#3 => some (.bge (rs1F w) (rs2F w) (immB w))
  | 6#3 => some (.bltu (rs1F w) (rs2F w) (immB w))
  | 7#3 => some (.bgeu (rs1F w) (rs2F w) (immB w))
  | _ => none

/-- LOAD minor opcodes (R132). -/
def decodeLoad (w : Word) : Option Instr :=
  match funct3F w with
  | 0#3 => some (.lb (rdF w) (rs1F w) (immI w))
  | 1#3 => some (.lh (rdF w) (rs1F w) (immI w))
  | 2#3 => some (.lw (rdF w) (rs1F w) (immI w))
  | 4#3 => some (.lbu (rdF w) (rs1F w) (immI w))
  | 5#3 => some (.lhu (rdF w) (rs1F w) (immI w))
  | _ => none

/-- STORE minor opcodes (R132). -/
def decodeStore (w : Word) : Option Instr :=
  match funct3F w with
  | 0#3 => some (.sb (rs1F w) (rs2F w) (immS w))
  | 1#3 => some (.sh (rs1F w) (rs2F w) (immS w))
  | 2#3 => some (.sw (rs1F w) (rs2F w) (immS w))
  | _ => none

/-- OP-IMM minor opcodes; the shifts need `w[31:25]` as R132 and D36 say. -/
def decodeOpImm (w : Word) : Option Instr :=
  match funct3F w with
  | 0#3 => some (.addi (rdF w) (rs1F w) (immI w))
  | 2#3 => some (.slti (rdF w) (rs1F w) (immI w))
  | 3#3 => some (.sltiu (rdF w) (rs1F w) (immI w))
  | 4#3 => some (.xori (rdF w) (rs1F w) (immI w))
  | 6#3 => some (.ori (rdF w) (rs1F w) (immI w))
  | 7#3 => some (.andi (rdF w) (rs1F w) (immI w))
  | 1#3 =>
    match funct7F w with
    | 0#7 => some (.slli (rdF w) (rs1F w) (rs2F w))
    | _ => none
  | 5#3 =>
    match funct7F w with
    | 0#7 => some (.srli (rdF w) (rs1F w) (rs2F w))
    | 0x20#7 => some (.srai (rdF w) (rs1F w) (rs2F w))
    | _ => none
  | _ => none

/-- OP with `funct7 = 0000000` (R132). -/
def decodeOpBase (w : Word) : Option Instr :=
  match funct3F w with
  | 0#3 => some (.add (rdF w) (rs1F w) (rs2F w))
  | 1#3 => some (.sll (rdF w) (rs1F w) (rs2F w))
  | 2#3 => some (.slt (rdF w) (rs1F w) (rs2F w))
  | 3#3 => some (.sltu (rdF w) (rs1F w) (rs2F w))
  | 4#3 => some (.xor (rdF w) (rs1F w) (rs2F w))
  | 5#3 => some (.srl (rdF w) (rs1F w) (rs2F w))
  | 6#3 => some (.or (rdF w) (rs1F w) (rs2F w))
  | 7#3 => some (.and (rdF w) (rs1F w) (rs2F w))
  | _ => none

/-- OP with `funct7 = 0100000` (R132). -/
def decodeOpAlt (w : Word) : Option Instr :=
  match funct3F w with
  | 0#3 => some (.sub (rdF w) (rs1F w) (rs2F w))
  | 5#3 => some (.sra (rdF w) (rs1F w) (rs2F w))
  | _ => none

/-- OP with `funct7 = 0000001`, the multiply and divide group (R132). -/
def decodeOpMul (w : Word) : Option Instr :=
  match funct3F w with
  | 0#3 => some (.mul (rdF w) (rs1F w) (rs2F w))
  | 1#3 => some (.mulh (rdF w) (rs1F w) (rs2F w))
  | 2#3 => some (.mulhsu (rdF w) (rs1F w) (rs2F w))
  | 3#3 => some (.mulhu (rdF w) (rs1F w) (rs2F w))
  | 4#3 => some (.div (rdF w) (rs1F w) (rs2F w))
  | 5#3 => some (.divu (rdF w) (rs1F w) (rs2F w))
  | 6#3 => some (.rem (rdF w) (rs1F w) (rs2F w))
  | 7#3 => some (.remu (rdF w) (rs1F w) (rs2F w))
  | _ => none

/-- OP: every other `funct7` is illegal (R132, D1). -/
def decodeOp (w : Word) : Option Instr :=
  match funct7F w with
  | 0#7 => decodeOpBase w
  | 0x20#7 => decodeOpAlt w
  | 1#7 => decodeOpMul w
  | _ => none

/-- MISC-MEM: all other fields of FENCE and FENCE.I are ignored, and kept (R132, D28). -/
def decodeMiscMem (w : Word) : Option Instr :=
  match funct3F w with
  | 0#3 => some (.fence (fmF w) (predF w) (succF w) (rs1F w) (rdF w))
  | 1#3 => some (.fenceI (immI w) (rs1F w) (rdF w))
  | _ => none

/-- SYSTEM: with funct3 000 only the two exact words of ECALL and EBREAK are legal (R132, D27). -/
def decodeSystem (w : Word) : Option Instr :=
  match funct3F w with
  | 0#3 => if w = 0x00000073#32 then some .ecall else if w = 0x00100073#32 then some .ebreak else none
  | 1#3 => some (.csrrw (rdF w) (immI w) (rs1F w))
  | 2#3 => some (.csrrs (rdF w) (immI w) (rs1F w))
  | 3#3 => some (.csrrc (rdF w) (immI w) (rs1F w))
  | 5#3 => some (.csrrwi (rdF w) (immI w) (rs1F w))
  | 6#3 => some (.csrrsi (rdF w) (immI w) (rs1F w))
  | 7#3 => some (.csrrci (rdF w) (immI w) (rs1F w))
  | _ => none

/-- AMO: funct3 010 only; LR.W needs `rs2 = 00000` (R132, D23). -/
def decodeAmo (w : Word) : Option Instr :=
  match funct3F w with
  | 2#3 =>
    match funct5F w with
    | 0x02#5 => if rs2F w = 0#5 then some (.lrW (rdF w) (rs1F w) (aqF w) (rlF w)) else none
    | 0x03#5 => some (.scW (rdF w) (rs1F w) (rs2F w) (aqF w) (rlF w))
    | 0x01#5 => some (.amoswapW (rdF w) (rs1F w) (rs2F w) (aqF w) (rlF w))
    | 0x00#5 => some (.amoaddW (rdF w) (rs1F w) (rs2F w) (aqF w) (rlF w))
    | 0x04#5 => some (.amoxorW (rdF w) (rs1F w) (rs2F w) (aqF w) (rlF w))
    | 0x0C#5 => some (.amoandW (rdF w) (rs1F w) (rs2F w) (aqF w) (rlF w))
    | 0x08#5 => some (.amoorW (rdF w) (rs1F w) (rs2F w) (aqF w) (rlF w))
    | 0x10#5 => some (.amominW (rdF w) (rs1F w) (rs2F w) (aqF w) (rlF w))
    | 0x14#5 => some (.amomaxW (rdF w) (rs1F w) (rs2F w) (aqF w) (rlF w))
    | 0x18#5 => some (.amominuW (rdF w) (rs1F w) (rs2F w) (aqF w) (rlF w))
    | 0x1C#5 => some (.amomaxuW (rdF w) (rs1F w) (rs2F w) (aqF w) (rlF w))
    | _ => none
  | _ => none

/-- The instruction of a 32-bit word, strictly (R131 to R134); `none` is an illegal word. -/
def decode32 (w : Word) : Option Instr :=
  match opcodeF w with
  | 0x37#7 => some (.lui (rdF w) (immU w))
  | 0x17#7 => some (.auipc (rdF w) (immU w))
  | 0x6F#7 => some (.jal (rdF w) (immJ w))
  | 0x67#7 =>
    match funct3F w with
    | 0#3 => some (.jalr (rdF w) (rs1F w) (immI w))
    | _ => none
  | 0x63#7 => decodeBranch w
  | 0x03#7 => decodeLoad w
  | 0x23#7 => decodeStore w
  | 0x13#7 => decodeOpImm w
  | 0x33#7 => decodeOp w
  | 0x0F#7 => decodeMiscMem w
  | 0x73#7 => decodeSystem w
  | 0x2F#7 => decodeAmo w
  | _ => none

/-! ### Fields of a 16-bit word (R136 to R138) -/

/-- The quadrant `h[1:0]` -/
def quadF (h : Half) : BitVec 2 := h.extractLsb' 0 2
/-- `h[15:13]` -/
def cFunct3F (h : Half) : BitVec 3 := h.extractLsb' 13 3
/-- `h[12]` -/
def cBit12F (h : Half) : BitVec 1 := h.extractLsb' 12 1
/-- `h[11:10]` -/
def cFunct2F (h : Half) : BitVec 2 := h.extractLsb' 10 2
/-- `h[6:5]`, the second `funct2` of the CA format -/
def cFunct2aF (h : Half) : BitVec 2 := h.extractLsb' 5 2
/-- `h[11:7]` -/
def cRdF (h : Half) : RegIdx := h.extractLsb' 7 5
/-- `h[6:2]`; also the low five bits of `ci_imm` and `ci_shamt` -/
def cRs2F (h : Half) : RegIdx := h.extractLsb' 2 5
/-- `h[9:7]`: `rs1'`, and `rd'` in CA and CB -/
def cRs1pF (h : Half) : CReg := h.extractLsb' 7 3
/-- `h[4:2]`: `rd'` in CIW and CL, `rs2'` in CS and CA -/
def cRs2pF (h : Half) : CReg := h.extractLsb' 2 3

/-- `ciw_nzuimm` -/
def ciwNzuimm (h : Half) : BitVec 10 :=
  h.extractLsb' 7 4 ++ h.extractLsb' 11 2 ++ h.extractLsb' 5 1 ++ h.extractLsb' 6 1 ++ 0#2
/-- `cl_uimm` -/
def clUimm (h : Half) : BitVec 7 := h.extractLsb' 5 1 ++ h.extractLsb' 10 3 ++ h.extractLsb' 6 1 ++ 0#2
/-- `ci_imm`; also the immediate of C.LUI -/
def ciImm (h : Half) : BitVec 6 := h.extractLsb' 12 1 ++ h.extractLsb' 2 5
/-- `ci_addi16sp` -/
def ciAddi16sp (h : Half) : BitVec 10 :=
  h.extractLsb' 12 1 ++ h.extractLsb' 3 2 ++ h.extractLsb' 5 1 ++ h.extractLsb' 2 1 ++ h.extractLsb' 6 1 ++ 0#4
/-- `ci_lwsp` -/
def ciLwsp (h : Half) : BitVec 8 := h.extractLsb' 2 2 ++ h.extractLsb' 12 1 ++ h.extractLsb' 4 3 ++ 0#2
/-- `css_swsp` -/
def cssSwsp (h : Half) : BitVec 8 := h.extractLsb' 7 2 ++ h.extractLsb' 9 4 ++ 0#2
/-- `cj_off` -/
def cjOff (h : Half) : BitVec 12 :=
  h.extractLsb' 12 1 ++ h.extractLsb' 8 1 ++ h.extractLsb' 9 2 ++ h.extractLsb' 6 1 ++ h.extractLsb' 7 1 ++
    h.extractLsb' 2 1 ++ h.extractLsb' 11 1 ++ h.extractLsb' 3 3 ++ 0#1
/-- `cb_off` -/
def cbOff (h : Half) : BitVec 9 :=
  h.extractLsb' 12 1 ++ h.extractLsb' 5 2 ++ h.extractLsb' 2 1 ++ h.extractLsb' 10 2 ++ h.extractLsb' 3 2 ++ 0#1

/-! ### 16-bit words (R139, R411 to R440) -/

/-- Quadrant 00. -/
def decodeQ0 (h : Half) : Option Instr :=
  match cFunct3F h with
  | 0#3 => if ciwNzuimm h = 0#10 then none else some (.cAddi4spn (cRs2pF h) (ciwNzuimm h))
  | 2#3 => some (.cLw (cRs2pF h) (cRs1pF h) (clUimm h))
  | 6#3 => some (.cSw (cRs1pF h) (cRs2pF h) (clUimm h))
  | _ => none

/-- Quadrant 01, funct3 100. -/
def decodeQ1Alu (h : Half) : Option Instr :=
  match cFunct2F h with
  | 0#2 => if cBit12F h = 0#1 then some (.cSrli (cRs1pF h) (cRs2F h)) else none
  | 1#2 => if cBit12F h = 0#1 then some (.cSrai (cRs1pF h) (cRs2F h)) else none
  | 2#2 => some (.cAndi (cRs1pF h) (ciImm h))
  | _ =>
    if cBit12F h = 0#1 then
      match cFunct2aF h with
      | 0#2 => some (.cSub (cRs1pF h) (cRs2pF h))
      | 1#2 => some (.cXor (cRs1pF h) (cRs2pF h))
      | 2#2 => some (.cOr (cRs1pF h) (cRs2pF h))
      | _ => some (.cAnd (cRs1pF h) (cRs2pF h))
    else none

/-- Quadrant 01. -/
def decodeQ1 (h : Half) : Option Instr :=
  match cFunct3F h with
  | 0#3 => if cRdF h = 0#5 then some (.cNop (ciImm h)) else some (.cAddi (cRdF h) (ciImm h))
  | 1#3 => some (.cJal (cjOff h))
  | 2#3 => some (.cLi (cRdF h) (ciImm h))
  | 3#3 =>
    if cRdF h = 2#5 then (if ciAddi16sp h = 0#10 then none else some (.cAddi16sp (ciAddi16sp h)))
    else if ciImm h = 0#6 then none
    else some (.cLui (cRdF h) (ciImm h))
  | 4#3 => decodeQ1Alu h
  | 5#3 => some (.cJ (cjOff h))
  | 6#3 => some (.cBeqz (cRs1pF h) (cbOff h))
  | _ => some (.cBnez (cRs1pF h) (cbOff h))

/-- Quadrant 10, funct3 100. -/
def decodeQ2Jump (h : Half) : Option Instr :=
  if cBit12F h = 0#1 then
    if cRs2F h = 0#5 then (if cRdF h = 0#5 then none else some (.cJr (cRdF h)))
    else some (.cMv (cRdF h) (cRs2F h))
  else
    if cRs2F h = 0#5 then (if cRdF h = 0#5 then some .cEbreak else some (.cJalr (cRdF h)))
    else some (.cAdd (cRdF h) (cRs2F h))

/-- Quadrant 10. -/
def decodeQ2 (h : Half) : Option Instr :=
  match cFunct3F h with
  | 0#3 => if cBit12F h = 0#1 then some (.cSlli (cRdF h) (cRs2F h)) else none
  | 2#3 => if cRdF h = 0#5 then none else some (.cLwsp (cRdF h) (ciLwsp h))
  | 4#3 => decodeQ2Jump h
  | 6#3 => some (.cSwsp (cRs2F h) (cssSwsp h))
  | _ => none

/-- The instruction of a 16-bit word (R139); `none` is an illegal halfword (R440). -/
def decode16 (h : Half) : Option Instr :=
  match quadF h with
  | 0#2 => decodeQ0 h
  | 1#2 => decodeQ1 h
  | 2#2 => decodeQ2 h
  | _ => none

/-! ### Encodings of either length (R120) -/

/-- A fetched or encoded instruction: a halfword whose low bits are not both set, or a word. -/
inductive Encoding where
  | half (h : Half)
  | word (w : Word)
  deriving DecidableEq, Repr

/-- The raw bits as a word: the `info` of an IllegalInstruction halt (R470). -/
def Encoding.raw : Encoding → Word
  | .half h => h.zeroExtend 32
  | .word w => w

/-- The bytes in address order (R83): the instruction word is the second halfword above the first (R82). -/
def Encoding.bytes : Encoding → List Byte
  | .half h => [h.extractLsb' 0 8, h.extractLsb' 8 8]
  | .word w => [w.extractLsb' 0 8, w.extractLsb' 8 8, w.extractLsb' 16 8, w.extractLsb' 24 8]

/-- The decoder on a fetched encoding (R172). -/
def decodeEncoding : Encoding → Option Instr
  | .half h => decode16 h
  | .word w => decode32 w

/-- Whether a first halfword begins a 32-bit instruction (R120). -/
def isLong (h : Half) : Bool := quadF h == 3#2

/-- Why the decoder rejects bytes. -/
inductive DecodeReject where
  /-- A halfword with no expansion (R440). -/
  | illegalHalf (h : Half)
  /-- A word that matches no row of the table (R134). -/
  | illegalWord (w : Word)
  /-- Fewer bytes than the instruction has. -/
  | tooShort
  deriving DecidableEq, Repr

/-- The instruction at the head of a list of bytes, and the bytes after it; total, rejecting by name. -/
def decodeBytes : List Byte → Except DecodeReject (Instr × List Byte)
  | b0 :: b1 :: rest =>
    if isLong (b1 ++ b0) then
      match rest with
      | b2 :: b3 :: rest' =>
        match decode32 (b3 ++ b2 ++ b1 ++ b0) with
        | some i => .ok (i, rest')
        | none => .error (.illegalWord (b3 ++ b2 ++ b1 ++ b0))
      | _ => .error .tooShort
    else
      match decode16 (b1 ++ b0) with
      | some i => .ok (i, rest)
      | none => .error (.illegalHalf (b1 ++ b0))
  | _ => .error .tooShort

/-- The four bytes at which an instruction of `nbits` bits `w` is laid out: little-endian, zero above `nbits` (R83). -/
def tableBytes (nbits w : Nat) : List Byte :=
  (Encoding.word (BitVec.ofNat 32 (w % 2 ^ nbits))).bytes

/-- What the decoder reads from an instruction whose bits are `w`, numbered as opcode_table.json numbers them. -/
def decodeTableWord (nbits w : Nat) : Option Instr :=
  match decodeBytes (tableBytes nbits w) with
  | .ok (i, _) => some i
  | .error _ => none

/-! ### The encoder -/

/-- The R layout (R122). -/
def encR (f7 : BitVec 7) (rs2 rs1 : RegIdx) (f3 : BitVec 3) (rd : RegIdx) (op : BitVec 7) : Word :=
  f7 ++ rs2 ++ rs1 ++ f3 ++ rd ++ op

/-- The I layout (R122). -/
def encI (imm : BitVec 12) (rs1 : RegIdx) (f3 : BitVec 3) (rd : RegIdx) (op : BitVec 7) : Word :=
  imm ++ rs1 ++ f3 ++ rd ++ op

/-- The S layout (R122, R124). -/
def encS (imm : BitVec 12) (rs2 rs1 : RegIdx) (f3 : BitVec 3) (op : BitVec 7) : Word :=
  encR (imm.extractLsb' 5 7) rs2 rs1 f3 (imm.extractLsb' 0 5) op

/-- The B layout (R122, R125). -/
def encB (off : BitVec 13) (rs2 rs1 : RegIdx) (f3 : BitVec 3) (op : BitVec 7) : Word :=
  encR (off.extractLsb' 12 1 ++ off.extractLsb' 5 6) rs2 rs1 f3 (off.extractLsb' 1 4 ++ off.extractLsb' 11 1) op

/-- The U layout (R122, R126). -/
def encU (imm : BitVec 20) (rd : RegIdx) (op : BitVec 7) : Word := imm ++ rd ++ op

/-- The J layout (R122, R127). -/
def encJ (off : BitVec 21) (rd : RegIdx) (op : BitVec 7) : Word :=
  encU (off.extractLsb' 20 1 ++ off.extractLsb' 1 10 ++ off.extractLsb' 11 1 ++ off.extractLsb' 12 8) rd op

/-- The AMO layout: `funct7` is `funct5 ++ aq ++ rl` (R122). -/
def encA (f5 : BitVec 5) (aq rl : Bool) (rs2 rs1 rd : RegIdx) : Word :=
  encR (f5 ++ BitVec.ofBool aq ++ BitVec.ofBool rl) rs2 rs1 2#3 rd 0x2F#7

/-- The CI, CR and CB-shift layout: `funct3`, bit 12, `h[11:7]`, `h[6:2]`, quadrant (R137). -/
def encCI (f3 : BitVec 3) (b12 : BitVec 1) (r : RegIdx) (lo : BitVec 5) (q : BitVec 2) : Half :=
  f3 ++ b12 ++ r ++ lo ++ q

/-- The CL, CS, CA and CB layout: `funct3`, `h[12:10]`, `h[9:7]`, `h[6:5]`, `h[4:2]`, quadrant (R137). -/
def encCL (f3 : BitVec 3) (hi : BitVec 3) (r1 : CReg) (mid : BitVec 2) (r2 : CReg) (q : BitVec 2) : Half :=
  f3 ++ hi ++ r1 ++ mid ++ r2 ++ q

/-- The CIW layout (R137, R138). -/
def encCIW (imm : BitVec 10) (rd : CReg) : Half :=
  0#3 ++ imm.extractLsb' 4 2 ++ imm.extractLsb' 6 4 ++ imm.extractLsb' 2 1 ++ imm.extractLsb' 3 1 ++ rd ++ 0#2

/-- The CSS layout of C.SWSP (R137, R138). -/
def encCSS (imm : BitVec 8) (rs2 : RegIdx) : Half :=
  6#3 ++ imm.extractLsb' 2 4 ++ imm.extractLsb' 6 2 ++ rs2 ++ 2#2

/-- The CJ layout (R137, R138). -/
def encCJ (f3 : BitVec 3) (off : BitVec 12) : Half :=
  f3 ++ off.extractLsb' 11 1 ++ off.extractLsb' 4 1 ++ off.extractLsb' 8 2 ++ off.extractLsb' 10 1 ++
    off.extractLsb' 6 1 ++ off.extractLsb' 7 1 ++ off.extractLsb' 1 3 ++ off.extractLsb' 5 1 ++ 1#2

/-- The CB layout of the branches (R137, R138). -/
def encCB (f3 : BitVec 3) (off : BitVec 9) (rs1 : CReg) : Half :=
  encCL f3 (off.extractLsb' 8 1 ++ off.extractLsb' 3 2) rs1 (off.extractLsb' 6 2)
    (off.extractLsb' 1 2 ++ off.extractLsb' 5 1) 1#2

/-- CL and CS with `cl_uimm` (R137, R138). -/
def encCLS (f3 : BitVec 3) (uimm : BitVec 7) (rs1 r2 : CReg) : Half :=
  encCL f3 (uimm.extractLsb' 3 3) rs1 (uimm.extractLsb' 2 1 ++ uimm.extractLsb' 6 1) r2 0#2

/-- The word or halfword of an instruction, from the encoding tables R122, R131, R132, R137 to R139. -/
def encode : Instr → Encoding
  | .lui rd imm => .word (encU imm rd 0x37#7)
  | .auipc rd imm => .word (encU imm rd 0x17#7)
  | .jal rd off => .word (encJ off rd 0x6F#7)
  | .jalr rd rs1 imm => .word (encI imm rs1 0#3 rd 0x67#7)
  | .beq rs1 rs2 off => .word (encB off rs2 rs1 0#3 0x63#7)
  | .bne rs1 rs2 off => .word (encB off rs2 rs1 1#3 0x63#7)
  | .blt rs1 rs2 off => .word (encB off rs2 rs1 4#3 0x63#7)
  | .bge rs1 rs2 off => .word (encB off rs2 rs1 5#3 0x63#7)
  | .bltu rs1 rs2 off => .word (encB off rs2 rs1 6#3 0x63#7)
  | .bgeu rs1 rs2 off => .word (encB off rs2 rs1 7#3 0x63#7)
  | .lb rd rs1 imm => .word (encI imm rs1 0#3 rd 0x03#7)
  | .lh rd rs1 imm => .word (encI imm rs1 1#3 rd 0x03#7)
  | .lw rd rs1 imm => .word (encI imm rs1 2#3 rd 0x03#7)
  | .lbu rd rs1 imm => .word (encI imm rs1 4#3 rd 0x03#7)
  | .lhu rd rs1 imm => .word (encI imm rs1 5#3 rd 0x03#7)
  | .sb rs1 rs2 imm => .word (encS imm rs2 rs1 0#3 0x23#7)
  | .sh rs1 rs2 imm => .word (encS imm rs2 rs1 1#3 0x23#7)
  | .sw rs1 rs2 imm => .word (encS imm rs2 rs1 2#3 0x23#7)
  | .addi rd rs1 imm => .word (encI imm rs1 0#3 rd 0x13#7)
  | .slti rd rs1 imm => .word (encI imm rs1 2#3 rd 0x13#7)
  | .sltiu rd rs1 imm => .word (encI imm rs1 3#3 rd 0x13#7)
  | .xori rd rs1 imm => .word (encI imm rs1 4#3 rd 0x13#7)
  | .ori rd rs1 imm => .word (encI imm rs1 6#3 rd 0x13#7)
  | .andi rd rs1 imm => .word (encI imm rs1 7#3 rd 0x13#7)
  | .slli rd rs1 shamt => .word (encR 0#7 shamt rs1 1#3 rd 0x13#7)
  | .srli rd rs1 shamt => .word (encR 0#7 shamt rs1 5#3 rd 0x13#7)
  | .srai rd rs1 shamt => .word (encR 0x20#7 shamt rs1 5#3 rd 0x13#7)
  | .add rd rs1 rs2 => .word (encR 0#7 rs2 rs1 0#3 rd 0x33#7)
  | .sub rd rs1 rs2 => .word (encR 0x20#7 rs2 rs1 0#3 rd 0x33#7)
  | .sll rd rs1 rs2 => .word (encR 0#7 rs2 rs1 1#3 rd 0x33#7)
  | .slt rd rs1 rs2 => .word (encR 0#7 rs2 rs1 2#3 rd 0x33#7)
  | .sltu rd rs1 rs2 => .word (encR 0#7 rs2 rs1 3#3 rd 0x33#7)
  | .xor rd rs1 rs2 => .word (encR 0#7 rs2 rs1 4#3 rd 0x33#7)
  | .srl rd rs1 rs2 => .word (encR 0#7 rs2 rs1 5#3 rd 0x33#7)
  | .sra rd rs1 rs2 => .word (encR 0x20#7 rs2 rs1 5#3 rd 0x33#7)
  | .or rd rs1 rs2 => .word (encR 0#7 rs2 rs1 6#3 rd 0x33#7)
  | .and rd rs1 rs2 => .word (encR 0#7 rs2 rs1 7#3 rd 0x33#7)
  | .mul rd rs1 rs2 => .word (encR 1#7 rs2 rs1 0#3 rd 0x33#7)
  | .mulh rd rs1 rs2 => .word (encR 1#7 rs2 rs1 1#3 rd 0x33#7)
  | .mulhsu rd rs1 rs2 => .word (encR 1#7 rs2 rs1 2#3 rd 0x33#7)
  | .mulhu rd rs1 rs2 => .word (encR 1#7 rs2 rs1 3#3 rd 0x33#7)
  | .div rd rs1 rs2 => .word (encR 1#7 rs2 rs1 4#3 rd 0x33#7)
  | .divu rd rs1 rs2 => .word (encR 1#7 rs2 rs1 5#3 rd 0x33#7)
  | .rem rd rs1 rs2 => .word (encR 1#7 rs2 rs1 6#3 rd 0x33#7)
  | .remu rd rs1 rs2 => .word (encR 1#7 rs2 rs1 7#3 rd 0x33#7)
  | .fence fm pred succ rs1 rd => .word (encI (fm ++ pred ++ succ) rs1 0#3 rd 0x0F#7)
  | .fenceI imm rs1 rd => .word (encI imm rs1 1#3 rd 0x0F#7)
  | .ecall => .word 0x00000073#32
  | .ebreak => .word 0x00100073#32
  | .csrrw rd csr rs1 => .word (encI csr rs1 1#3 rd 0x73#7)
  | .csrrs rd csr rs1 => .word (encI csr rs1 2#3 rd 0x73#7)
  | .csrrc rd csr rs1 => .word (encI csr rs1 3#3 rd 0x73#7)
  | .csrrwi rd csr zimm => .word (encI csr zimm 5#3 rd 0x73#7)
  | .csrrsi rd csr zimm => .word (encI csr zimm 6#3 rd 0x73#7)
  | .csrrci rd csr zimm => .word (encI csr zimm 7#3 rd 0x73#7)
  | .lrW rd rs1 aq rl => .word (encA 0x02#5 aq rl 0#5 rs1 rd)
  | .scW rd rs1 rs2 aq rl => .word (encA 0x03#5 aq rl rs2 rs1 rd)
  | .amoswapW rd rs1 rs2 aq rl => .word (encA 0x01#5 aq rl rs2 rs1 rd)
  | .amoaddW rd rs1 rs2 aq rl => .word (encA 0x00#5 aq rl rs2 rs1 rd)
  | .amoxorW rd rs1 rs2 aq rl => .word (encA 0x04#5 aq rl rs2 rs1 rd)
  | .amoandW rd rs1 rs2 aq rl => .word (encA 0x0C#5 aq rl rs2 rs1 rd)
  | .amoorW rd rs1 rs2 aq rl => .word (encA 0x08#5 aq rl rs2 rs1 rd)
  | .amominW rd rs1 rs2 aq rl => .word (encA 0x10#5 aq rl rs2 rs1 rd)
  | .amomaxW rd rs1 rs2 aq rl => .word (encA 0x14#5 aq rl rs2 rs1 rd)
  | .amominuW rd rs1 rs2 aq rl => .word (encA 0x18#5 aq rl rs2 rs1 rd)
  | .amomaxuW rd rs1 rs2 aq rl => .word (encA 0x1C#5 aq rl rs2 rs1 rd)
  | .cAddi4spn rd nzuimm => .half (encCIW nzuimm rd)
  | .cLw rd rs1 uimm => .half (encCLS 2#3 uimm rs1 rd)
  | .cSw rs1 rs2 uimm => .half (encCLS 6#3 uimm rs1 rs2)
  | .cNop imm => .half (encCI 0#3 (imm.extractLsb' 5 1) 0#5 (imm.extractLsb' 0 5) 1#2)
  | .cAddi rd imm => .half (encCI 0#3 (imm.extractLsb' 5 1) rd (imm.extractLsb' 0 5) 1#2)
  | .cJal off => .half (encCJ 1#3 off)
  | .cLi rd imm => .half (encCI 2#3 (imm.extractLsb' 5 1) rd (imm.extractLsb' 0 5) 1#2)
  | .cAddi16sp nzimm => .half (encCI 3#3 (nzimm.extractLsb' 9 1) 2#5
      (nzimm.extractLsb' 4 1 ++ nzimm.extractLsb' 6 1 ++ nzimm.extractLsb' 7 2 ++ nzimm.extractLsb' 5 1) 1#2)
  | .cLui rd imm => .half (encCI 3#3 (imm.extractLsb' 5 1) rd (imm.extractLsb' 0 5) 1#2)
  | .cSrli rd shamt => .half (encCI 4#3 0#1 (0#2 ++ rd) shamt 1#2)
  | .cSrai rd shamt => .half (encCI 4#3 0#1 (1#2 ++ rd) shamt 1#2)
  | .cAndi rd imm => .half (encCI 4#3 (imm.extractLsb' 5 1) (2#2 ++ rd) (imm.extractLsb' 0 5) 1#2)
  | .cSub rd rs2 => .half (encCL 4#3 3#3 rd 0#2 rs2 1#2)
  | .cXor rd rs2 => .half (encCL 4#3 3#3 rd 1#2 rs2 1#2)
  | .cOr rd rs2 => .half (encCL 4#3 3#3 rd 2#2 rs2 1#2)
  | .cAnd rd rs2 => .half (encCL 4#3 3#3 rd 3#2 rs2 1#2)
  | .cJ off => .half (encCJ 5#3 off)
  | .cBeqz rs1 off => .half (encCB 6#3 off rs1)
  | .cBnez rs1 off => .half (encCB 7#3 off rs1)
  | .cSlli rd shamt => .half (encCI 0#3 0#1 rd shamt 2#2)
  | .cLwsp rd uimm => .half (encCI 2#3 (uimm.extractLsb' 5 1) rd (uimm.extractLsb' 2 3 ++ uimm.extractLsb' 6 2) 2#2)
  | .cJr rs1 => .half (encCI 4#3 0#1 rs1 0#5 2#2)
  | .cMv rd rs2 => .half (encCI 4#3 0#1 rd rs2 2#2)
  | .cEbreak => .half 0x9002#16
  | .cJalr rs1 => .half (encCI 4#3 1#1 rs1 0#5 2#2)
  | .cAdd rd rs2 => .half (encCI 4#3 1#1 rd rs2 2#2)
  | .cSwsp rs2 uimm => .half (encCSS uimm rs2)

/-! ### The 16-to-32-bit rewrite (R410 to R437) -/

/-- The full register number of a compressed register field: `x(8 + field)` (R136). -/
def cReg (r : CReg) : RegIdx := 1#2 ++ r

/-- The 32-bit instruction a compressed instruction is rewritten to; `none` for a 32-bit instruction. -/
def Instr.expand : Instr → Option Instr
  | .cAddi4spn rd nzuimm => some (.addi (cReg rd) 2#5 (nzuimm.zeroExtend 12))
  | .cLw rd rs1 uimm => some (.lw (cReg rd) (cReg rs1) (uimm.zeroExtend 12))
  | .cSw rs1 rs2 uimm => some (.sw (cReg rs1) (cReg rs2) (uimm.zeroExtend 12))
  | .cNop imm => some (.addi 0#5 0#5 (imm.signExtend 12))
  | .cAddi rd imm => some (.addi rd rd (imm.signExtend 12))
  | .cJal off => some (.jal 1#5 (off.signExtend 21))
  | .cLi rd imm => some (.addi rd 0#5 (imm.signExtend 12))
  | .cAddi16sp nzimm => some (.addi 2#5 2#5 (nzimm.signExtend 12))
  | .cLui rd imm => some (.lui rd (imm.signExtend 20))
  | .cSrli rd shamt => some (.srli (cReg rd) (cReg rd) shamt)
  | .cSrai rd shamt => some (.srai (cReg rd) (cReg rd) shamt)
  | .cAndi rd imm => some (.andi (cReg rd) (cReg rd) (imm.signExtend 12))
  | .cSub rd rs2 => some (.sub (cReg rd) (cReg rd) (cReg rs2))
  | .cXor rd rs2 => some (.xor (cReg rd) (cReg rd) (cReg rs2))
  | .cOr rd rs2 => some (.or (cReg rd) (cReg rd) (cReg rs2))
  | .cAnd rd rs2 => some (.and (cReg rd) (cReg rd) (cReg rs2))
  | .cJ off => some (.jal 0#5 (off.signExtend 21))
  | .cBeqz rs1 off => some (.beq (cReg rs1) 0#5 (off.signExtend 13))
  | .cBnez rs1 off => some (.bne (cReg rs1) 0#5 (off.signExtend 13))
  | .cSlli rd shamt => some (.slli rd rd shamt)
  | .cLwsp rd uimm => some (.lw rd 2#5 (uimm.zeroExtend 12))
  | .cJr rs1 => some (.jalr 0#5 rs1 0#12)
  | .cMv rd rs2 => some (.add rd 0#5 rs2)
  | .cEbreak => some .ebreak
  | .cJalr rs1 => some (.jalr 1#5 rs1 0#12)
  | .cAdd rd rs2 => some (.add rd rd rs2)
  | .cSwsp rs2 uimm => some (.sw 2#5 rs2 (uimm.zeroExtend 12))
  | .lui _ _ => none
  | .auipc _ _ => none
  | .jal _ _ => none
  | .jalr _ _ _ => none
  | .beq _ _ _ => none
  | .bne _ _ _ => none
  | .blt _ _ _ => none
  | .bge _ _ _ => none
  | .bltu _ _ _ => none
  | .bgeu _ _ _ => none
  | .lb _ _ _ => none
  | .lh _ _ _ => none
  | .lw _ _ _ => none
  | .lbu _ _ _ => none
  | .lhu _ _ _ => none
  | .sb _ _ _ => none
  | .sh _ _ _ => none
  | .sw _ _ _ => none
  | .addi _ _ _ => none
  | .slti _ _ _ => none
  | .sltiu _ _ _ => none
  | .xori _ _ _ => none
  | .ori _ _ _ => none
  | .andi _ _ _ => none
  | .slli _ _ _ => none
  | .srli _ _ _ => none
  | .srai _ _ _ => none
  | .add _ _ _ => none
  | .sub _ _ _ => none
  | .sll _ _ _ => none
  | .slt _ _ _ => none
  | .sltu _ _ _ => none
  | .xor _ _ _ => none
  | .srl _ _ _ => none
  | .sra _ _ _ => none
  | .or _ _ _ => none
  | .and _ _ _ => none
  | .mul _ _ _ => none
  | .mulh _ _ _ => none
  | .mulhsu _ _ _ => none
  | .mulhu _ _ _ => none
  | .div _ _ _ => none
  | .divu _ _ _ => none
  | .rem _ _ _ => none
  | .remu _ _ _ => none
  | .fence _ _ _ _ _ => none
  | .fenceI _ _ _ => none
  | .ecall => none
  | .ebreak => none
  | .csrrw _ _ _ => none
  | .csrrs _ _ _ => none
  | .csrrc _ _ _ => none
  | .csrrwi _ _ _ => none
  | .csrrsi _ _ _ => none
  | .csrrci _ _ _ => none
  | .lrW _ _ _ _ => none
  | .scW _ _ _ _ _ => none
  | .amoswapW _ _ _ _ _ => none
  | .amoaddW _ _ _ _ _ => none
  | .amoxorW _ _ _ _ _ => none
  | .amoandW _ _ _ _ _ => none
  | .amoorW _ _ _ _ _ => none
  | .amominW _ _ _ _ _ => none
  | .amomaxW _ _ _ _ _ => none
  | .amominuW _ _ _ _ _ => none
  | .amomaxuW _ _ _ _ _ => none

/-- `Expand(h)` of R410: the 32-bit word a halfword is rewritten to, or `none` for `Illegal`. -/
def expandHalf (h : Half) : Option Word :=
  match decode16 h with
  | some i => i.expand.map fun e => (encode e).raw
  | none => none

/-- The length of an instruction in bytes, `ilen` (R36, R120). -/
def Instr.ilen (i : Instr) : Word :=
  match encode i with
  | .half _ => 2#32
  | .word _ => 4#32

/-! ### The opcode table's rows (opcode_table.json, R133) -/

/-- A row's mask and the value a word has under it. -/
structure OpcodeRow where
  mask : Word
  value : Word
  deriving DecidableEq, Repr

/-- A word matches a row (R133). -/
def OpcodeRow.matchesWord (r : OpcodeRow) (w : Word) : Bool := w &&& r.mask == r.value

/-- The row of opcode_table.json an instruction stands for (a compressed row's bits are the low halfword). -/
def Instr.row : Instr → OpcodeRow
  | .lui _ _ => ⟨0x0000007F#32, 0x00000037#32⟩
  | .auipc _ _ => ⟨0x0000007F#32, 0x00000017#32⟩
  | .jal _ _ => ⟨0x0000007F#32, 0x0000006F#32⟩
  | .jalr _ _ _ => ⟨0x0000707F#32, 0x00000067#32⟩
  | .beq _ _ _ => ⟨0x0000707F#32, 0x00000063#32⟩
  | .bne _ _ _ => ⟨0x0000707F#32, 0x00001063#32⟩
  | .blt _ _ _ => ⟨0x0000707F#32, 0x00004063#32⟩
  | .bge _ _ _ => ⟨0x0000707F#32, 0x00005063#32⟩
  | .bltu _ _ _ => ⟨0x0000707F#32, 0x00006063#32⟩
  | .bgeu _ _ _ => ⟨0x0000707F#32, 0x00007063#32⟩
  | .lb _ _ _ => ⟨0x0000707F#32, 0x00000003#32⟩
  | .lh _ _ _ => ⟨0x0000707F#32, 0x00001003#32⟩
  | .lw _ _ _ => ⟨0x0000707F#32, 0x00002003#32⟩
  | .lbu _ _ _ => ⟨0x0000707F#32, 0x00004003#32⟩
  | .lhu _ _ _ => ⟨0x0000707F#32, 0x00005003#32⟩
  | .sb _ _ _ => ⟨0x0000707F#32, 0x00000023#32⟩
  | .sh _ _ _ => ⟨0x0000707F#32, 0x00001023#32⟩
  | .sw _ _ _ => ⟨0x0000707F#32, 0x00002023#32⟩
  | .addi _ _ _ => ⟨0x0000707F#32, 0x00000013#32⟩
  | .slti _ _ _ => ⟨0x0000707F#32, 0x00002013#32⟩
  | .sltiu _ _ _ => ⟨0x0000707F#32, 0x00003013#32⟩
  | .xori _ _ _ => ⟨0x0000707F#32, 0x00004013#32⟩
  | .ori _ _ _ => ⟨0x0000707F#32, 0x00006013#32⟩
  | .andi _ _ _ => ⟨0x0000707F#32, 0x00007013#32⟩
  | .slli _ _ _ => ⟨0xFE00707F#32, 0x00001013#32⟩
  | .srli _ _ _ => ⟨0xFE00707F#32, 0x00005013#32⟩
  | .srai _ _ _ => ⟨0xFE00707F#32, 0x40005013#32⟩
  | .add _ _ _ => ⟨0xFE00707F#32, 0x00000033#32⟩
  | .sub _ _ _ => ⟨0xFE00707F#32, 0x40000033#32⟩
  | .sll _ _ _ => ⟨0xFE00707F#32, 0x00001033#32⟩
  | .slt _ _ _ => ⟨0xFE00707F#32, 0x00002033#32⟩
  | .sltu _ _ _ => ⟨0xFE00707F#32, 0x00003033#32⟩
  | .xor _ _ _ => ⟨0xFE00707F#32, 0x00004033#32⟩
  | .srl _ _ _ => ⟨0xFE00707F#32, 0x00005033#32⟩
  | .sra _ _ _ => ⟨0xFE00707F#32, 0x40005033#32⟩
  | .or _ _ _ => ⟨0xFE00707F#32, 0x00006033#32⟩
  | .and _ _ _ => ⟨0xFE00707F#32, 0x00007033#32⟩
  | .mul _ _ _ => ⟨0xFE00707F#32, 0x02000033#32⟩
  | .mulh _ _ _ => ⟨0xFE00707F#32, 0x02001033#32⟩
  | .mulhsu _ _ _ => ⟨0xFE00707F#32, 0x02002033#32⟩
  | .mulhu _ _ _ => ⟨0xFE00707F#32, 0x02003033#32⟩
  | .div _ _ _ => ⟨0xFE00707F#32, 0x02004033#32⟩
  | .divu _ _ _ => ⟨0xFE00707F#32, 0x02005033#32⟩
  | .rem _ _ _ => ⟨0xFE00707F#32, 0x02006033#32⟩
  | .remu _ _ _ => ⟨0xFE00707F#32, 0x02007033#32⟩
  | .fence _ _ _ _ _ => ⟨0x0000707F#32, 0x0000000F#32⟩
  | .fenceI _ _ _ => ⟨0x0000707F#32, 0x0000100F#32⟩
  | .ecall => ⟨0xFFFFFFFF#32, 0x00000073#32⟩
  | .ebreak => ⟨0xFFFFFFFF#32, 0x00100073#32⟩
  | .csrrw _ _ _ => ⟨0x0000707F#32, 0x00001073#32⟩
  | .csrrs _ _ _ => ⟨0x0000707F#32, 0x00002073#32⟩
  | .csrrc _ _ _ => ⟨0x0000707F#32, 0x00003073#32⟩
  | .csrrwi _ _ _ => ⟨0x0000707F#32, 0x00005073#32⟩
  | .csrrsi _ _ _ => ⟨0x0000707F#32, 0x00006073#32⟩
  | .csrrci _ _ _ => ⟨0x0000707F#32, 0x00007073#32⟩
  | .lrW _ _ _ _ => ⟨0xF9F0707F#32, 0x1000202F#32⟩
  | .scW _ _ _ _ _ => ⟨0xF800707F#32, 0x1800202F#32⟩
  | .amoswapW _ _ _ _ _ => ⟨0xF800707F#32, 0x0800202F#32⟩
  | .amoaddW _ _ _ _ _ => ⟨0xF800707F#32, 0x0000202F#32⟩
  | .amoxorW _ _ _ _ _ => ⟨0xF800707F#32, 0x2000202F#32⟩
  | .amoandW _ _ _ _ _ => ⟨0xF800707F#32, 0x6000202F#32⟩
  | .amoorW _ _ _ _ _ => ⟨0xF800707F#32, 0x4000202F#32⟩
  | .amominW _ _ _ _ _ => ⟨0xF800707F#32, 0x8000202F#32⟩
  | .amomaxW _ _ _ _ _ => ⟨0xF800707F#32, 0xA000202F#32⟩
  | .amominuW _ _ _ _ _ => ⟨0xF800707F#32, 0xC000202F#32⟩
  | .amomaxuW _ _ _ _ _ => ⟨0xF800707F#32, 0xE000202F#32⟩
  | .cAddi4spn _ _ => ⟨0xE003#32, 0x0000#32⟩
  | .cLw _ _ _ => ⟨0xE003#32, 0x4000#32⟩
  | .cSw _ _ _ => ⟨0xE003#32, 0xC000#32⟩
  | .cNop _ => ⟨0xEF83#32, 0x0001#32⟩
  | .cAddi _ _ => ⟨0xE003#32, 0x0001#32⟩
  | .cJal _ => ⟨0xE003#32, 0x2001#32⟩
  | .cLi _ _ => ⟨0xE003#32, 0x4001#32⟩
  | .cAddi16sp _ => ⟨0xEF83#32, 0x6101#32⟩
  | .cLui _ _ => ⟨0xE003#32, 0x6001#32⟩
  | .cSrli _ _ => ⟨0xFC03#32, 0x8001#32⟩
  | .cSrai _ _ => ⟨0xFC03#32, 0x8401#32⟩
  | .cAndi _ _ => ⟨0xEC03#32, 0x8801#32⟩
  | .cSub _ _ => ⟨0xFC63#32, 0x8C01#32⟩
  | .cXor _ _ => ⟨0xFC63#32, 0x8C21#32⟩
  | .cOr _ _ => ⟨0xFC63#32, 0x8C41#32⟩
  | .cAnd _ _ => ⟨0xFC63#32, 0x8C61#32⟩
  | .cJ _ => ⟨0xE003#32, 0xA001#32⟩
  | .cBeqz _ _ => ⟨0xE003#32, 0xC001#32⟩
  | .cBnez _ _ => ⟨0xE003#32, 0xE001#32⟩
  | .cSlli _ _ => ⟨0xF003#32, 0x0002#32⟩
  | .cLwsp _ _ => ⟨0xE003#32, 0x4002#32⟩
  | .cJr _ => ⟨0xF07F#32, 0x8002#32⟩
  | .cMv _ _ => ⟨0xF003#32, 0x8002#32⟩
  | .cEbreak => ⟨0xFFFF#32, 0x9002#32⟩
  | .cJalr _ => ⟨0xF07F#32, 0x9002#32⟩
  | .cAdd _ _ => ⟨0xF003#32, 0x9002#32⟩
  | .cSwsp _ _ => ⟨0xE003#32, 0xC002#32⟩

/-- The 32-bit rows of opcode_table.json. -/
def opcodeTable32 : List OpcodeRow :=
  [⟨0x0000007F#32, 0x00000037#32⟩,
   ⟨0x0000007F#32, 0x00000017#32⟩] ++
  [⟨0x0000007F#32, 0x0000006F#32⟩] ++
  [⟨0x0000707F#32, 0x00000067#32⟩] ++
  [⟨0x0000707F#32, 0x00000063#32⟩,
   ⟨0x0000707F#32, 0x00001063#32⟩,
   ⟨0x0000707F#32, 0x00004063#32⟩,
   ⟨0x0000707F#32, 0x00005063#32⟩,
   ⟨0x0000707F#32, 0x00006063#32⟩,
   ⟨0x0000707F#32, 0x00007063#32⟩] ++
  [⟨0x0000707F#32, 0x00000003#32⟩,
   ⟨0x0000707F#32, 0x00001003#32⟩,
   ⟨0x0000707F#32, 0x00002003#32⟩,
   ⟨0x0000707F#32, 0x00004003#32⟩,
   ⟨0x0000707F#32, 0x00005003#32⟩] ++
  [⟨0x0000707F#32, 0x00000023#32⟩,
   ⟨0x0000707F#32, 0x00001023#32⟩,
   ⟨0x0000707F#32, 0x00002023#32⟩] ++
  [⟨0x0000707F#32, 0x00000013#32⟩,
   ⟨0x0000707F#32, 0x00002013#32⟩,
   ⟨0x0000707F#32, 0x00003013#32⟩,
   ⟨0x0000707F#32, 0x00004013#32⟩,
   ⟨0x0000707F#32, 0x00006013#32⟩,
   ⟨0x0000707F#32, 0x00007013#32⟩] ++
  [⟨0xFE00707F#32, 0x00001013#32⟩,
   ⟨0xFE00707F#32, 0x00005013#32⟩,
   ⟨0xFE00707F#32, 0x40005013#32⟩] ++
  [⟨0xFE00707F#32, 0x00000033#32⟩,
   ⟨0xFE00707F#32, 0x40000033#32⟩,
   ⟨0xFE00707F#32, 0x00001033#32⟩,
   ⟨0xFE00707F#32, 0x00002033#32⟩,
   ⟨0xFE00707F#32, 0x00003033#32⟩,
   ⟨0xFE00707F#32, 0x00004033#32⟩,
   ⟨0xFE00707F#32, 0x00005033#32⟩,
   ⟨0xFE00707F#32, 0x40005033#32⟩,
   ⟨0xFE00707F#32, 0x00006033#32⟩,
   ⟨0xFE00707F#32, 0x00007033#32⟩] ++
  [⟨0xFE00707F#32, 0x02000033#32⟩,
   ⟨0xFE00707F#32, 0x02001033#32⟩,
   ⟨0xFE00707F#32, 0x02002033#32⟩,
   ⟨0xFE00707F#32, 0x02003033#32⟩,
   ⟨0xFE00707F#32, 0x02004033#32⟩,
   ⟨0xFE00707F#32, 0x02005033#32⟩,
   ⟨0xFE00707F#32, 0x02006033#32⟩,
   ⟨0xFE00707F#32, 0x02007033#32⟩] ++
  [⟨0x0000707F#32, 0x0000000F#32⟩,
   ⟨0x0000707F#32, 0x0000100F#32⟩,
   ⟨0xFFFFFFFF#32, 0x00000073#32⟩,
   ⟨0xFFFFFFFF#32, 0x00100073#32⟩] ++
  [⟨0x0000707F#32, 0x00001073#32⟩,
   ⟨0x0000707F#32, 0x00002073#32⟩,
   ⟨0x0000707F#32, 0x00003073#32⟩,
   ⟨0x0000707F#32, 0x00005073#32⟩,
   ⟨0x0000707F#32, 0x00006073#32⟩,
   ⟨0x0000707F#32, 0x00007073#32⟩] ++
  [⟨0xF9F0707F#32, 0x1000202F#32⟩,
   ⟨0xF800707F#32, 0x1800202F#32⟩,
   ⟨0xF800707F#32, 0x0800202F#32⟩,
   ⟨0xF800707F#32, 0x0000202F#32⟩,
   ⟨0xF800707F#32, 0x2000202F#32⟩,
   ⟨0xF800707F#32, 0x6000202F#32⟩,
   ⟨0xF800707F#32, 0x4000202F#32⟩,
   ⟨0xF800707F#32, 0x8000202F#32⟩,
   ⟨0xF800707F#32, 0xA000202F#32⟩,
   ⟨0xF800707F#32, 0xC000202F#32⟩,
   ⟨0xF800707F#32, 0xE000202F#32⟩]

end Sys2Proof
end

