-- ==== Sys2Proof/Config.lean ====
section
/-! DEFINITION. What creation fixes for one machine (00_scope.md R8, R9; 70_reset_and_hazards.md R560),
and the free values behind the host's answers. -/

namespace Sys2Proof

/-- `TIMESPEC_LAYOUT` (R8, R508): the 32-bit-time or the 64-bit-time structure. -/
inductive TimespecLayout where
  | ts32
  | ts64
  deriving DecidableEq, Repr

/-- The devices behind the fabric (20_memory.md R72). -/
inductive Device where
  | sysctl
  | keyboard
  | timer
  | uart
  | framebuffer
  deriving DecidableEq, Repr

/-- The parameters that creation fixes (R8, R9, R560). A state holds one of these, and no step changes it. -/
structure Config where
  /-- `MEM_SIZE`: bytes of RAM, 2^20 to 2^27. -/
  memSize : Nat
  uartBase : Word
  timerBase : Word
  fbBase : Word
  kbdBase : Word
  sysctlBase : Word
  /-- `FB_PRESENT`: the framebuffer is fitted. -/
  fbPresent : Bool
  /-- `KBD_PRESENT`: the keyboard is fitted. -/
  kbdPresent : Bool
  /-- `KBD_QUEUE_CAP`: the bound of the keyboard queue. -/
  kbdQueueCap : Nat
  /-- `SYSCTL_MAGIC`: the word that sets the quit flag. -/
  sysctlMagic : Word
  /-- `BRK_INIT`: the first program break. -/
  brkInit : Word
  timespec : TimespecLayout
  deriving DecidableEq, Repr

/-- The configuration of the machine that `State.reset` is. The bases are the canonical ones (R8, R72).
DESIGN CHOICE (log 2, unsafe for a claim about `State.reset` alone): R8 leaves the other values OPEN; these are
the ones 95_test_vectors.md assumes, and a capacity of 16. -/
def Config.canonical : Config where
  memSize := 0x100000
  uartBase := 0x10000000#32
  timerBase := 0x1100BFF8#32
  fbBase := 0x11100000#32
  kbdBase := 0x11200000#32
  sysctlBase := 0x11300000#32
  fbPresent := true
  kbdPresent := true
  kbdQueueCap := 16
  sysctlMagic := 0x5555#32
  brkInit := 0x00040000#32
  timespec := .ts32

/-- FREE VALUE (log 4): the host clock reading at a draw for which the host has supplied no sample, by the number of
the draw. Nothing in Lean evaluates it (R531: an oracle). -/
opaque Config.freeClock : Nat → Dword

/-- FREE VALUE (log 5): the bytes the host's input stream gives at a draw for which no answer was supplied, by the number
of the draw and the number of bytes asked for (R504: an oracle). -/
opaque Config.freeRead : Nat → Nat → List Byte

/-- FREE VALUE (log 6): the base the allocator offers at a draw for which no answer was supplied, by the number of the
draw, the regions granted so far and the length asked for; `none` refuses (R507: an oracle). -/
opaque Config.freeMmap : Nat → List (Word × Word) → Word → Option Word

end Sys2Proof
end

