-- ==== Sys2Proof/Machine/State.lean ====
section
/-! DEFINITION. The machine's state as plain data, and its value right after creation
(10_state.md; 70_reset_and_hazards.md R560; R50's table). -/

namespace Sys2Proof.Machine

/-- Why a run ends in a fatal halt (60_exceptions.md R470). -/
inductive HaltReason where
  | misalignedFetch
  | fetchOutOfRange
  | illegalInstruction
  | breakpoint
  | outOfRangeLoad
  | outOfRangeStore
  deriving DecidableEq, Repr

/-- `status` (R47). A halt carries its `info` (R470) with its reason: DEDUCED (log 11). -/
inductive RunStatus where
  | running
  | halted (reason : HaltReason) (info : Word)
  | exited (code : Word)
  | quit
  deriving DecidableEq, Repr

/-- RAM, and the framebuffer, as the bytes that are not 0, by rising address (R44, R50). -/
abbrev Memory := List Host.Cell

/-- What the devices behind the fabric hold (R45). -/
structure DeviceState where
  /-- `uart_in`: the character input queue, head first (R521). -/
  uartIn : List Byte
  /-- `kbd_q`: the keyboard event queue, head first (R540). -/
  kbdQ : List Word
  /-- `fb`: the framebuffer's bytes, four a pixel: blue, green, red, alpha (R536; `fbPixel` in Machine/Fabric.lean). -/
  fb : Memory
  /-- `quit` (R176, R546). -/
  quit : Bool
  deriving DecidableEq, Repr

/-- What the environment holds (R46), what it has been given to answer with, and what it has received. -/
structure EnvState where
  /-- Every byte emitted on the character stream, oldest first (R502, R522; log 8). -/
  out : List Byte
  /-- `brk`: the program break (R506). -/
  brk : Word
  /-- The regions `HostMmap` granted, base and length, newest first (R46, R507; log 6). -/
  mmapRegions : List (Word × Word)
  /-- `t0_host`: the timer's origin (R45, R531). -/
  t0Host : Dword
  /-- The last host clock reading drawn (R531: no draw is below the one before; log 4). -/
  clockLast : Dword
  /-- Host clock readings supplied for the next draws, first first (R531; log 4). -/
  clockSamples : List Dword
  /-- Answers supplied for the next `HostRead` calls, first first (R504; log 5). -/
  hostReads : List (List Byte)
  /-- Answers supplied for the next `HostMmap` calls, first first (R507; log 6). -/
  mmapAnswers : List (Option Word)
  /-- How many draws were made: the argument of the free values (log 7). -/
  draws : Nat
  deriving DecidableEq, Repr

/-- A snapshot (R49, R585). -/
structure Snapshot where
  pc : Word
  regs : Vector Word 32
  instret : Dword
  deriving DecidableEq, Repr

/-- A trace record (R49, R585); the instruction stands for its rendered mnemonic (log 12). -/
structure TraceRecord where
  cycle : Dword
  pc : Word
  raw : Word
  instr : Instr
  deriving DecidableEq, Repr

/-- The debugger's rings, newest first (R49, R585). -/
structure DebugState where
  snapshots : List Snapshot
  trace : List TraceRecord
  deriving DecidableEq, Repr

/-- Everything the spec gives the machine (10_state.md), with its configuration. -/
structure State where
  /-- What creation fixed (R8, R560). -/
  cfg : Config
  /-- `x0` to `x31` (R30). -/
  regs : Vector Word 32
  /-- The address of the next instruction (R35). -/
  pc : Word
  /-- The retired-instruction counter (R37). -/
  instret : Dword
  /-- `csrmem`: the plain CSR storage, as the indices that are not 0, rising (R38). -/
  csrmem : List (Nat × Word)
  /-- `resv_valid` (R43). -/
  resvValid : Bool
  /-- `resv_addr` (R43). -/
  resvAddr : Word
  /-- `mem` (R44). -/
  mem : Memory
  dev : DeviceState
  env : EnvState
  /-- `status` (R47). -/
  status : RunStatus
  dbg : DebugState
  deriving DecidableEq, Repr

/-- The faults of the model. -/
inductive Fault where
  /-- Raised by `step` alone, in a state whose status is not Running: such a state has no step (R47, R170). Safe: the
  machine takes no step either. -/
  | notRunning (status : RunStatus)
  deriving DecidableEq, Repr

/-- The refusals of the model. -/
inductive Refusal where
  /-- Raised by an arm of `exec` with no meaning yet; no arm raises it. Safe. -/
  | notModelled (mnemonic : String)
  deriving DecidableEq, Repr

/-- Creation with a configuration (R560; R50's column "at creation"). DESIGN CHOICE for `t0Host` (log 3), the clock,
the host's answers, the draws (logs 4 to 7) and the stream (log 8), which R50 gives no number. -/
def State.create (c : Config) : State where
  cfg := c
  regs := Vector.replicate 32 0#32
  pc := 0#32
  instret := 0#64
  csrmem := []
  resvValid := false
  resvAddr := 0#32
  mem := []
  dev :=
    { uartIn := []
      kbdQ := []
      fb := []
      quit := false }
  env :=
    { out := []
      brk := c.brkInit
      mmapRegions := []
      t0Host := 0#64
      clockLast := 0#64
      clockSamples := []
      hostReads := []
      mmapAnswers := []
      draws := 0 }
  status := .running
  dbg :=
    { snapshots := []
      trace := [] }

/-- The machine right after creation, with the configuration of log 2. -/
def State.reset : State := State.create Config.canonical

end Sys2Proof.Machine
end

