-- ==== Sys2Proof/Machine/Ops.lean ====
section
/-! DEFINITION. The named operations: sparse storage, registers, retiring, ending a run, the host's answers, the
reservation, and fetching. -/

namespace Sys2Proof.Machine

/-- What a meaning answers. -/
abbrev Result := Host.Outcome State Fault Refusal

/-! ### Sparse storage: values by rising key, none of them 0, which is what an unlisted key reads as (R38, R44, R45) -/

/-- The value at a key. -/
def sparseGet {w : Nat} : List (Nat × BitVec w) → Nat → BitVec w
  | [], _ => 0#w
  | (k, v) :: rest, a => if a < k then 0#w else if a = k then v else sparseGet rest a

/-- Write a value at a key. Writing 0 drops the key; on a canonical list the filter keeps all of `rest`. -/
def sparseSet {w : Nat} : List (Nat × BitVec w) → Nat → BitVec w → List (Nat × BitVec w)
  | [], a, v => if v = 0#w then [] else [(a, v)]
  | (k, u) :: rest, a, v =>
    if a < k then (if v = 0#w then (k, u) :: rest else (a, v) :: (k, u) :: rest)
    else if a = k then (if v = 0#w then rest.filter (fun e => decide (a < e.1)) else (a, v) :: rest)
    else (k, u) :: sparseSet rest a v

/-- The canonical form: keys strictly rising, no value 0. -/
abbrev Sparse.wf {w : Nat} (m : List (Nat × BitVec w)) : Prop :=
  m.Pairwise (fun e f => e.1 < f.1) ∧ ∀ e ∈ m, e.2 ≠ 0#w

/-- The canonical form of a memory. -/
abbrev Memory.wf (m : Memory) : Prop := Sparse.wf m

/-- One byte of RAM. -/
def memByte (s : State) (a : Nat) : Byte := sparseGet s.mem a

/-- Write bytes at rising addresses. -/
def writeBytes : Memory → Nat → List Byte → Memory
  | m, _, [] => m
  | m, a, b :: bs => writeBytes (sparseSet m a b) (a + 1) bs

/-- The `n` bytes of a memory from an address on, in address order. -/
def readBytes (m : Memory) (a n : Nat) : List Byte := (List.range n).map fun k => sparseGet m (a + k)

/-! ### Widths and byte order (R83, R87) -/

/-- The number of bytes `n` of a width. -/
def widthBytes : Width → Nat
  | .byte => 1
  | .half => 2
  | .word => 4

/-- The low `8n` bits of a value. -/
def lowBits : Width → Word → Word
  | .byte, v => (v.extractLsb' 0 8).zeroExtend 32
  | .half, v => (v.extractLsb' 0 16).zeroExtend 32
  | .word, v => v

/-- The low `8n` bits of a value as bytes, little-endian (R80). -/
def leBytes : Width → Word → List Byte
  | .byte, v => [v.extractLsb' 0 8]
  | .half, v => [v.extractLsb' 0 8, v.extractLsb' 8 8]
  | .word, v => [v.extractLsb' 0 8, v.extractLsb' 8 8, v.extractLsb' 16 8, v.extractLsb' 24 8]

/-- The `8n`-bit value of the bytes `f 0` up, little-endian, zero-extended (R79). -/
def leValue : Width → (Nat → Byte) → Word
  | .byte, f => (f 0).zeroExtend 32
  | .half, f => (f 1 ++ f 0).zeroExtend 32
  | .word, f => f 3 ++ f 2 ++ f 1 ++ f 0

/-- The bytes of a 32-bit value, `le32` of R508. -/
def le32 (v : Word) : List Byte := leBytes .word v

/-- The bytes of a 64-bit value, `le64` of R508. -/
def le64 (v : Dword) : List Byte := le32 (v.extractLsb' 0 32) ++ le32 (v.extractLsb' 32 32)

/-! ### Registers (R30, R31) -/

/-- `x[r]`; x0 reads 0. -/
def readReg (r : RegIdx) (s : State) : Word := if r = 0#5 then 0#32 else s.regs[r.toNat]'r.isLt

/-- `x[r] <- v`; a write to x0 is discarded. -/
def writeReg (r : RegIdx) (v : Word) (s : State) : State :=
  { s with regs := if r = 0#5 then s.regs else s.regs.set r.toNat v r.isLt }

/-! ### Retiring and ending a run -/

/-- Force x0, take the next pc, count the instruction (R174, R175). -/
def retire (nextPc : Word) (s : State) : State :=
  { s with regs := s.regs.set 0 0#32, pc := nextPc, instret := s.instret + 1#64 }

/-- Write a destination register and retire. -/
def retireWith (rd : RegIdx) (v nextPc : Word) (s : State) : Result := .next (retire nextPc (writeReg rd v s))

/-- `raise Fatal(reason, info)`: nothing changes but the status (R177, R471). The machine's only exception; there is no
entry and no return (R480, R481). -/
def halt (reason : HaltReason) (info : Word) (s : State) : Result :=
  .next { s with status := .halted reason info }

/-- `Exit(code)`: nothing changes but the status (R503). -/
def exitRun (code : Word) (s : State) : Result := .next { s with status := .exited code }

/-- `Quit`: nothing changes but the status (R176). -/
def quitRun (s : State) : Result := .next { s with status := .quit }

/-! ### The host's answers: a supplied one, else a free value (logs 4 to 7) -/

/-- The host clock reading of the next draw: the supplied sample, or the free one, and never below the last (R531). -/
def clockReading (s : State) : Dword :=
  let sample := match s.env.clockSamples with
    | [] => Config.freeClock s.env.draws
    | x :: _ => x
  if sample < s.env.clockLast then s.env.clockLast else sample

/-- The state after a draw of the clock. -/
def drawClock (s : State) : State :=
  { s with env := { s.env with
      clockLast := clockReading s
      clockSamples := s.env.clockSamples.tail
      draws := s.env.draws + 1 } }

/-- The value of `TimerNow()` at the next draw: microseconds since `t0_host` (R531). -/
def timerValue (s : State) : Dword := clockReading s - s.env.t0Host

/-- The bytes `HostRead(n)` answers, at most `n` (R504). -/
def hostReadBytes (n : Nat) (s : State) : List Byte :=
  (match s.env.hostReads with
    | [] => Config.freeRead s.env.draws n
    | x :: _ => x).take n

/-- The state after a `HostRead`. -/
def drawRead (s : State) : State :=
  { s with env := { s.env with hostReads := s.env.hostReads.tail, draws := s.env.draws + 1 } }

/-- The base `HostMmap(len)` answers; an offer not wholly in RAM is a refusal (R507). -/
def hostMmapBase (len : Word) (s : State) : Option Word :=
  let offer := match s.env.mmapAnswers with
    | [] => Config.freeMmap s.env.draws s.env.mmapRegions len
    | x :: _ => x
  match offer with
  | some b => if b.toNat + len.toNat ≤ s.cfg.memSize then some b else none
  | none => none

/-- The state after a `HostMmap` with that answer. -/
def drawMmap (len : Word) (answer : Option Word) (s : State) : State :=
  { s with env := { s.env with
      mmapAnswers := s.env.mmapAnswers.tail
      mmapRegions := match answer with
        | some b => (b, len) :: s.env.mmapRegions
        | none => s.env.mmapRegions
      draws := s.env.draws + 1 } }

/-- Emit bytes on the character stream, in order (R502, R522). -/
def emit (bs : List Byte) (s : State) : State := { s with env := { s.env with out := s.env.out ++ bs } }

/-! ### The reservation (45_atomic.md) -/

/-- The byte ranges `[a, a+n)` and `[r, r+m)` share a byte. -/
def rangesMeet (a n r m : Nat) : Bool := decide (0 < n) && decide (0 < m) && decide (a < r + m) && decide (r < a + n)

/-- `ResvSnoop(a, n)` (R331); the ranges do not wrap at 2^32 (log 14). -/
def resvSnoop (a n : Nat) (s : State) : State :=
  { s with resvValid := s.resvValid && !rangesMeet a n s.resvAddr.toNat 4 }

/-- `resv_addr <- ea; resv_valid <- true` (R330). -/
def setResv (ea : Word) (s : State) : State := { s with resvAddr := ea, resvValid := true }

/-- `resv_valid <- false` (R336). -/
def clearResv (s : State) : State := { s with resvValid := false }

/-- Write bytes to RAM and snoop them (R80, R95). -/
def writeRam (a : Nat) (bs : List Byte) (s : State) : State :=
  resvSnoop a bs.length { s with mem := writeBytes s.mem a bs }

/-! ### Fetch (R82, R171) -/

/-- What a fetch gives: an encoding, or the reason and info of the halt it raises. -/
inductive Fetched where
  | ok (e : Encoding)
  | fatal (reason : HaltReason) (info : Word)
  deriving DecidableEq, Repr

/-- `FetchHalf(a)` of R82; RAM only. -/
def fetchHalf (s : State) (a : Word) : Except (HaltReason × Word) Half :=
  if a.getLsbD 0 then .error (.misalignedFetch, a)
  else if a.toNat + 2 ≤ s.cfg.memSize then .ok (memByte s (a.toNat + 1) ++ memByte s a.toNat)
  else .error (.fetchOutOfRange, a)

/-- The fetch of a step (R171). The first halfword decides alone whether it is an illegal compressed one, before the
second is fetched (R475), so the second is fetched for a long instruction only. -/
def fetch (s : State) : Fetched :=
  match fetchHalf s s.pc with
  | .error (r, a) => .fatal r a
  | .ok h0 =>
    if isLong h0 then
      match fetchHalf s (s.pc + 2#32) with
      | .error (r, a) => .fatal r a
      | .ok h1 => .ok (.word (h1 ++ h0))
    else .ok (.half h0)

end Sys2Proof.Machine
end

