-- ==== Sys2Proof/Machine/Operands.lean ====
section
/-! DEFINITION. The operand forms: immediates extended to 32 bits, effective addresses, shift amounts
(30_encoding.md R123 to R129, R136, R138; 43_load_store.md R270). -/

namespace Sys2Proof.Machine

/-- `sext_N` to 32 bits (R11): `immI`, `immS`, `immB`, `immJ` and the signed compressed immediates. -/
def sext {n : Nat} (v : BitVec n) : Word := v.signExtend 32

/-- `zext_N` to 32 bits (R11): the unsigned compressed immediates and `zimm`. -/
def zext {n : Nat} (v : BitVec n) : Word := v.zeroExtend 32

/-- `immU`: the 20 bits in bits 31..12 (R126). -/
def immUpper (v : BitVec 20) : Word := v ++ 0#12

/-- The value C.LUI gives: the sign-extended 6 bits shifted left 12 (R138, R419). -/
def immCLui (v : BitVec 6) : Word := sext v <<< 12

/-- The effective address: base plus displacement, modulo 2^32 (R270). -/
def effAddr (rs1 : RegIdx) (disp : Word) (s : State) : Word := readReg rs1 s + disp

/-- A shift amount in a register: its low five bits (R128). -/
def regShamt (v : Word) : Nat := (v.extractLsb' 0 5).toNat

/-- A jump target with bit 0 cleared (R251). -/
def clearBit0 (t : Word) : Word := t &&& 0xFFFFFFFE#32

end Sys2Proof.Machine
end

