-- ==== Sys2Proof/Machine/Flags.lean ====
section
/-! DEFINITION. The machine has no flags and no condition codes (10_state.md R48): the comparisons that stand in their
place, and the value a set-if-less form writes. -/

namespace Sys2Proof.Machine

/-- `s(a) < s(b)` (R11). -/
def ltS (a b : Word) : Bool := decide (a.toInt < b.toInt)

/-- `u(a) < u(b)` (R11). -/
def ltU (a b : Word) : Bool := decide (a.toNat < b.toNat)

/-- `? 1 : 0` (R206, R218). -/
def boolWord (b : Bool) : Word := if b then 1#32 else 0#32

end Sys2Proof.Machine
end

