-- ==== Sys2Proof/Machine/Fabric.lean ====
section
/-! DEFINITION. The memory fabric: device regions, classification, the devices' registers, `MemRead` and `MemWrite`
(20_memory.md; 60_exceptions.md R520 to R548). -/

namespace Sys2Proof.Machine

/-! ### Regions (R72, R73) -/

/-- `FB_W`, pixels in a row (R8, R536). -/
def fbW : Nat := 640

/-- `FB_H`, rows (R8, R536). -/
def fbH : Nat := 480

/-- The size of the framebuffer, `FB_W * FB_H * 4` (R72). -/
def fbSize : Nat := fbW * fbH * 4

/-- The size of a device's region (R72). -/
def regionSize : Device → Nat
  | .sysctl => 4
  | .keyboard => 12
  | .timer => 8
  | .uart => 256
  | .framebuffer => fbSize

/-- The base of a device's region. -/
def regionBase (c : Config) : Device → Nat
  | .sysctl => c.sysctlBase.toNat
  | .keyboard => c.kbdBase.toNat
  | .timer => c.timerBase.toNat
  | .uart => c.uartBase.toNat
  | .framebuffer => c.fbBase.toNat

/-- Whether a device is fitted (R72). -/
def devicePresent (c : Config) : Device → Bool
  | .sysctl => true
  | .keyboard => c.kbdPresent
  | .timer => true
  | .uart => true
  | .framebuffer => c.fbPresent

/-- An address lies in a present device's region. -/
def inRegion (c : Config) (d : Device) (a : Word) : Bool :=
  devicePresent c d && decide (regionBase c d ≤ a.toNat) && decide (a.toNat < regionBase c d + regionSize d)

/-- `DeviceAt(a)`: the first device in the order of R77 whose region holds the address. -/
def deviceAt (c : Config) (a : Word) : Option Device :=
  if inRegion c .sysctl a then some .sysctl
  else if inRegion c .keyboard a then some .keyboard
  else if inRegion c .timer a then some .timer
  else if inRegion c .uart a then some .uart
  else if inRegion c .framebuffer a then some .framebuffer
  else none

/-- Two regions share no byte. -/
def regionsApart (c : Config) (d e : Device) : Bool :=
  !devicePresent c d || !devicePresent c e ||
    !rangesMeet (regionBase c d) (regionSize d) (regionBase c e) (regionSize e)

/-- A region that is present starts above RAM and ends inside the address space. -/
def regionPlaced (c : Config) (d : Device) : Bool :=
  !devicePresent c d || (decide (c.memSize ≤ regionBase c d) && decide (regionBase c d + regionSize d ≤ 2 ^ 32))

/-- The configurations R8 and R9 allow: the size in its range, a positive queue bound, regions that overlap neither RAM
nor each other, except the keyboard's and the framebuffer's (R72, R78). -/
abbrev ConfigOk (c : Config) : Prop :=
  2 ^ 20 ≤ c.memSize ∧ c.memSize ≤ 2 ^ 27 ∧ 0 < c.kbdQueueCap ∧
  (∀ d ∈ [Device.sysctl, .keyboard, .timer, .uart, .framebuffer], regionPlaced c d = true) ∧
  regionsApart c .sysctl .keyboard = true ∧ regionsApart c .sysctl .timer = true ∧
  regionsApart c .sysctl .uart = true ∧ regionsApart c .sysctl .framebuffer = true ∧
  regionsApart c .keyboard .timer = true ∧ regionsApart c .keyboard .uart = true ∧
  regionsApart c .timer .uart = true ∧ regionsApart c .timer .framebuffer = true ∧
  regionsApart c .uart .framebuffer = true

/-! ### Classification (R75) -/

/-- What an access reaches: RAM, a device at an offset, or nothing. -/
inductive Target where
  | ram
  | dev (d : Device) (offset : Nat)
  | outOfRange
  deriving DecidableEq, Repr

/-- `Classify(a, n)` of R75. -/
def classify (c : Config) (a : Word) (n : Nat) : Target :=
  match deviceAt c a with
  | some d => .dev d (a.toNat - regionBase c d)
  | none => if a.toNat + n ≤ c.memSize then .ram else .outOfRange

/-! ### The character port (R521 to R524) -/

/-- A byte read at offset 0: the head of the queue, or 0 (R521). -/
def uartData (s : State) : Word :=
  match s.dev.uartIn with
  | [] => 0#32
  | b :: _ => zext b

/-- The queue after that read (R521). -/
def popUart (s : State) : State := { s with dev := { s.dev with uartIn := s.dev.uartIn.tail } }

/-- A byte read at offset 5 (R523). -/
def uartStatus (s : State) : Word := 0x60#32 ||| boolWord (!s.dev.uartIn.isEmpty)

/-- `DevRead(uart, o, n)`. -/
def uartRead (o : Nat) (n : Width) (s : State) : Word × State :=
  match n with
  | .byte => if o = 0 then (uartData s, popUart s) else if o = 5 then (uartStatus s, s) else (0#32, s)
  | .half => (0#32, s)
  | .word => (0#32, s)

/-- `DevWrite(uart, o, n, v)` (R522, R524). -/
def uartWrite (o : Nat) (n : Width) (v : Word) (s : State) : State :=
  match n with
  | .byte => if o = 0 then emit [v.extractLsb' 0 8] s else s
  | .half => s
  | .word => s

/-! ### The timer (R530) -/

/-- `DevRead(timer, o, n)`; a word read of either half draws, no other access does. -/
def timerRead (o : Nat) (n : Width) (s : State) : Word × State :=
  match n with
  | .word =>
    if o = 0 then ((timerValue s).extractLsb' 0 32, drawClock s)
    else if o = 4 then ((timerValue s).extractLsb' 32 32, drawClock s)
    else (0#32, s)
  | .byte => (0#32, s)
  | .half => (0#32, s)

/-! ### The framebuffer (R536, R537) -/

/-- A byte of the framebuffer; past its end, 0. -/
def fbByte (s : State) (o : Nat) : Byte := if o < fbSize then sparseGet s.dev.fb o else 0#8

/-- `DevRead(framebuffer, o, n)`. -/
def fbRead (o : Nat) (n : Width) (s : State) : Word × State := (leValue n (fun k => fbByte s (o + k)), s)

/-- `DevWrite(framebuffer, o, n, v)`; the part past the end is dropped. -/
def fbWrite (o : Nat) (n : Width) (v : Word) (s : State) : State :=
  { s with dev := { s.dev with fb := writeBytes s.dev.fb o ((leBytes n v).take (fbSize - o)) } }

/-- A pixel (R536). -/
structure Pixel where
  alpha : Byte
  red : Byte
  green : Byte
  blue : Byte
  deriving DecidableEq, Repr

/-- The word of a pixel, `A<<24 | R<<16 | G<<8 | B` (R536). -/
def pixelWord (p : Pixel) : Word := p.alpha ++ p.red ++ p.green ++ p.blue

/-- The pixel of a word (R536). -/
def pixelOf (w : Word) : Pixel where
  alpha := w.extractLsb' 24 8
  red := w.extractLsb' 16 8
  green := w.extractLsb' 8 8
  blue := w.extractLsb' 0 8

/-- The offset of pixel `(px, py)`, row by row (R536). -/
def pixelOffset (px py : Nat) : Nat := 4 * (py * fbW + px)

/-- Pixel `(px, py)`: the little-endian word at its offset (R536). This is what the host's surface shows (R182). -/
def fbPixel (s : State) (px py : Nat) : Pixel := pixelOf (leValue .word (fun k => fbByte s (pixelOffset px py + k)))

/-! ### The keyboard (R540) -/

/-- The head event, or 0. -/
def kbdData (s : State) : Word :=
  match s.dev.kbdQ with
  | [] => 0#32
  | e :: _ => e

/-- The queue after a data read: the whole head event is gone. -/
def popKbd (s : State) : State := { s with dev := { s.dev with kbdQ := s.dev.kbdQ.tail } }

/-- `DevRead(keyboard, o, n)`. -/
def kbdRead (o : Nat) (n : Width) (s : State) : Word × State :=
  if o = 0 then (lowBits n (boolWord (!s.dev.kbdQ.isEmpty)), s)
  else if o = 4 then (lowBits n (kbdData s), popKbd s)
  else (0#32, s)

/-- `DevWrite(keyboard, o, n, v)`: any write at offset 8 empties the queue. -/
def kbdWrite (o : Nat) (s : State) : State :=
  if o = 8 then { s with dev := { s.dev with kbdQ := [] } } else s

/-! ### System control (R546) -/

/-- `DevWrite(sysctl, o, n, v)`: a word write of the magic value at offset 0 sets the quit flag. -/
def sysctlWrite (o : Nat) (n : Width) (v : Word) (s : State) : State :=
  match n with
  | .word => if o = 0 ∧ v = s.cfg.sysctlMagic then { s with dev := { s.dev with quit := true } } else s
  | .byte => s
  | .half => s

/-! ### The data accesses (R78 to R80) -/

/-- `DevRead(d, o, n)`: the `8n`-bit value and the state after the read's side effect. -/
def devRead (d : Device) (o : Nat) (n : Width) (s : State) : Word × State :=
  match d with
  | .sysctl => (0#32, s)
  | .keyboard => kbdRead o n s
  | .timer => timerRead o n s
  | .uart => uartRead o n s
  | .framebuffer => fbRead o n s

/-- `DevWrite(d, o, n, v)`. -/
def devWrite (d : Device) (o : Nat) (n : Width) (v : Word) (s : State) : State :=
  match d with
  | .sysctl => sysctlWrite o n v s
  | .keyboard => kbdWrite o s
  | .timer => s
  | .uart => uartWrite o n v s
  | .framebuffer => fbWrite o n v s

/-- `MemRead(a, n)` of R79: the `8n`-bit value and the state after it; `none` is out of range. -/
def memRead (a : Word) (n : Width) (s : State) : Option (Word × State) :=
  match classify s.cfg a (widthBytes n) with
  | .ram => some (leValue n (fun k => memByte s (a.toNat + k)), s)
  | .dev d o => some (devRead d o n s)
  | .outOfRange => none

/-- `MemWrite(a, n, v)` of R80, with the reservation snoop; `none` is out of range. -/
def memWrite (a : Word) (n : Width) (v : Word) (s : State) : Option State :=
  match classify s.cfg a (widthBytes n) with
  | .ram => some (writeRam a.toNat (leBytes n v) s)
  | .dev d o => some (resvSnoop a.toNat (widthBytes n) (devWrite d o n v s))
  | .outOfRange => none

end Sys2Proof.Machine
end

