-- ==== Sys2Proof/Machine/Csr.lean ====
section
/-! DEFINITION. The CSR file (10_state.md R38 to R42) and the common operation of the CSR instructions
(46_system_csr.md R374). -/

namespace Sys2Proof.Machine

/-- The indices that read the low half of the retired-instruction counter (R39). -/
def counterLo : List CsrIdx := [0xC00#12, 0xC02#12, 0xB02#12]

/-- The indices that read its high half (R39). -/
def counterHi : List CsrIdx := [0xC80#12, 0xC82#12, 0xB82#12]

/-- `COUNTER_CSRS` (R39). -/
def counterCsrs : List CsrIdx := counterLo ++ counterHi ++ [0xC01#12, 0xC81#12]

/-- `CsrRead(c)` of R42: the value, and the state after the timer draw that a time CSR makes. -/
def csrRead (c : CsrIdx) (s : State) : Word × State :=
  if c ∈ counterLo then (s.instret.extractLsb' 0 32, s)
  else if c ∈ counterHi then (s.instret.extractLsb' 32 32, s)
  else if c = 0xC01#12 then ((timerValue s).extractLsb' 0 32, drawClock s)
  else if c = 0xC81#12 then ((timerValue s).extractLsb' 32 32, drawClock s)
  else (sparseGet s.csrmem c.toNat, s)

/-- `CsrWrite(c, v)` of R42; a counter index ignores the write (R40). -/
def csrWrite (c : CsrIdx) (v : Word) (s : State) : State :=
  { s with csrmem := if c ∈ counterCsrs then s.csrmem else sparseSet s.csrmem c.toNat v }

/-- CSRRW and CSRRWI on a source value: write always writes (R374). -/
def csrWriteOp (rd : RegIdx) (c : CsrIdx) (src : Word) (s : State) : Result :=
  let old := csrRead c s
  retireWith rd old.1 (s.pc + 4#32) (csrWrite c src old.2)

/-- The set and clear forms: `f old src` is written unless the source field is 0 (R374). -/
def csrModifyOp (f : Word → Word → Word) (rd : RegIdx) (c : CsrIdx) (src : Word) (field : BitVec 5) (s : State) :
    Result :=
  let old := csrRead c s
  retireWith rd old.1 (s.pc + 4#32) (if field = 0#5 then old.2 else csrWrite c (f old.1 src) old.2)

/-- `old | src` -/
def csrSetBits (old src : Word) : Word := old ||| src

/-- `old & ~src` -/
def csrClearBits (old src : Word) : Word := old &&& ~~~src

end Sys2Proof.Machine
end

