-- ==== Sys2Proof/Machine/Ecall.lean ====
section
/-! DEFINITION. The environment-call shim at its interface (60_exceptions.md R500 to R509). -/

namespace Sys2Proof.Machine

/-- A buffer lies wholly in RAM. -/
def bufferInRam (s : State) (buf : Word) (n : Nat) : Bool := decide (buf.toNat + n ≤ s.cfg.memSize)

/-- A returning call: the result in x10, `pc + 4`, retired (R500). -/
def envReturn (r : Word) (s : State) : Result := retireWith 10#5 r (s.pc + 4#32) s

/-- write (R502). -/
def envWrite (s : State) : Result :=
  let fd := readReg 10#5 s
  let buf := readReg 11#5 s
  let n := readReg 12#5 s
  if (fd = 1#32 ∨ fd = 2#32) ∧ bufferInRam s buf n.toNat then
    envReturn n (emit (readBytes s.mem buf.toNat n.toNat) s)
  else envReturn 0xFFFFFFFF#32 s

/-- read (R504); a call that waits is answered (R505; log 5). -/
def envRead (s : State) : Result :=
  let fd := readReg 10#5 s
  let buf := readReg 11#5 s
  let n := readReg 12#5 s
  if fd = 0#32 ∧ bufferInRam s buf n.toNat then
    let bytes := hostReadBytes n.toNat s
    envReturn (BitVec.ofNat 32 bytes.length) (writeRam buf.toNat bytes (drawRead s))
  else envReturn 0xFFFFFFFF#32 s

/-- exit (R503). -/
def envExit (s : State) : Result := exitRun (readReg 10#5 s) s

/-- brk (R506). -/
def envBrk (s : State) : Result :=
  if readReg 10#5 s = 0#32 then envReturn s.env.brk s
  else envReturn (readReg 10#5 s) { s with env := { s.env with brk := readReg 10#5 s } }

/-- mmap (R507). -/
def envMmap (s : State) : Result :=
  let len := readReg 11#5 s
  let r := hostMmapBase len s
  envReturn (match r with | some b => b | none => 0xFFFFFFFF#32) (drawMmap len r s)

/-- The bytes of a timespec (R508). -/
def timespecBytes (layout : TimespecLayout) (t : Dword) : List Byte :=
  let sec : Dword := BitVec.ofNat 64 (t.toNat / 1000000)
  let nsec : Word := BitVec.ofNat 32 (t.toNat % 1000000 * 1000)
  match layout with
  | .ts32 => le32 (sec.extractLsb' 0 32) ++ le32 nsec
  | .ts64 => le64 sec ++ le32 nsec ++ le32 0#32

/-- clock-get-time (R508). -/
def envClock (s : State) : Result :=
  let addr := readReg 11#5 s
  let bytes := timespecBytes s.cfg.timespec (timerValue s)
  envReturn 0#32
    (if bufferInRam s addr bytes.length then writeRam addr.toNat bytes (drawClock s) else drawClock s)

/-- An unknown selector (R509). -/
def envUnknown (s : State) : Result := envReturn 0xFFFFFFDA#32 s

/-- `EnvCall`, by the selector in x17 (R501). -/
def envCall (s : State) : Result :=
  let sel := readReg 17#5 s
  if sel = 93#32 then envExit s
  else if sel = 64#32 then envWrite s
  else if sel = 63#32 then envRead s
  else if sel = 214#32 then envBrk s
  else if sel = 222#32 then envMmap s
  else if sel = 113#32 then envClock s
  else envUnknown s

end Sys2Proof.Machine
end

