-- ==== Sys2Proof/Machine/Integer.lean ====
section
/-! DEFINITION. The integer computational instructions (41_integer_computational.md). -/

namespace Sys2Proof.Machine

/-! ### Shared operations; the length of the instruction is an argument (R442) -/

/-- A result that needs no state: `x[rd] <- v; next_pc <- pc + ilen`. -/
def setOp (ilen : Word) (rd : RegIdx) (v : Word) (s : State) : Result := retireWith rd v (s.pc + ilen) s

/-- A register-immediate form: `x[rd] <- f x[rs1] b`. -/
def immOp (f : Word → Word → Word) (ilen : Word) (rd rs1 : RegIdx) (b : Word) (s : State) : Result :=
  retireWith rd (f (readReg rs1 s) b) (s.pc + ilen) s

/-- An immediate shift: `x[rd] <- f x[rs1] shamt`. -/
def shiftOp (f : Word → Nat → Word) (ilen : Word) (rd rs1 : RegIdx) (shamt : BitVec 5) (s : State) : Result :=
  retireWith rd (f (readReg rs1 s) shamt.toNat) (s.pc + ilen) s

/-- A register-register form: `x[rd] <- f x[rs1] x[rs2]`. -/
def regOp (f : Word → Word → Word) (ilen : Word) (rd rs1 rs2 : RegIdx) (s : State) : Result :=
  retireWith rd (f (readReg rs1 s) (readReg rs2 s)) (s.pc + ilen) s

/-- R205, R215 -/
def addWord (a b : Word) : Word := a + b
/-- R216 -/
def subWord (a b : Word) : Word := a - b
/-- R206, R218 -/
def sltWord (a b : Word) : Word := boolWord (ltS a b)
/-- R207, R219 -/
def sltuWord (a b : Word) : Word := boolWord (ltU a b)
/-- R208, R220 -/
def xorWord (a b : Word) : Word := a ^^^ b
/-- R209, R223 -/
def orWord (a b : Word) : Word := a ||| b
/-- R210, R224 -/
def andWord (a b : Word) : Word := a &&& b
/-- `<<` (R211, R217) -/
def sllWord (a : Word) (n : Nat) : Word := a <<< n
/-- `>>u` (R212, R221) -/
def srlWord (a : Word) (n : Nat) : Word := a >>> n
/-- `>>s` (R213, R222) -/
def sraWord (a : Word) (n : Nat) : Word := a.sshiftRight n
/-- A shift by the low five bits of a register (R217, R221, R222). -/
def byReg (f : Word → Nat → Word) (a b : Word) : Word := f a (regShamt b)

/-! ### Meanings -/

/-- R200 -/
def execLui (rd : RegIdx) (imm : BitVec 20) (s : State) : Result := setOp 4#32 rd (immUpper imm) s
/-- R201 -/
def execAuipc (rd : RegIdx) (imm : BitVec 20) (s : State) : Result := setOp 4#32 rd (s.pc + immUpper imm) s
/-- R205 -/
def execAddi (rd rs1 : RegIdx) (imm : BitVec 12) (s : State) : Result := immOp addWord 4#32 rd rs1 (sext imm) s
/-- R206 -/
def execSlti (rd rs1 : RegIdx) (imm : BitVec 12) (s : State) : Result := immOp sltWord 4#32 rd rs1 (sext imm) s
/-- R207 -/
def execSltiu (rd rs1 : RegIdx) (imm : BitVec 12) (s : State) : Result := immOp sltuWord 4#32 rd rs1 (sext imm) s
/-- R208 -/
def execXori (rd rs1 : RegIdx) (imm : BitVec 12) (s : State) : Result := immOp xorWord 4#32 rd rs1 (sext imm) s
/-- R209 -/
def execOri (rd rs1 : RegIdx) (imm : BitVec 12) (s : State) : Result := immOp orWord 4#32 rd rs1 (sext imm) s
/-- R210 -/
def execAndi (rd rs1 : RegIdx) (imm : BitVec 12) (s : State) : Result := immOp andWord 4#32 rd rs1 (sext imm) s
/-- R211 -/
def execSlli (rd rs1 : RegIdx) (shamt : BitVec 5) (s : State) : Result := shiftOp sllWord 4#32 rd rs1 shamt s
/-- R212 -/
def execSrli (rd rs1 : RegIdx) (shamt : BitVec 5) (s : State) : Result := shiftOp srlWord 4#32 rd rs1 shamt s
/-- R213 -/
def execSrai (rd rs1 : RegIdx) (shamt : BitVec 5) (s : State) : Result := shiftOp sraWord 4#32 rd rs1 shamt s
/-- R215 -/
def execAdd (rd rs1 rs2 : RegIdx) (s : State) : Result := regOp addWord 4#32 rd rs1 rs2 s
/-- R216 -/
def execSub (rd rs1 rs2 : RegIdx) (s : State) : Result := regOp subWord 4#32 rd rs1 rs2 s
/-- R217 -/
def execSll (rd rs1 rs2 : RegIdx) (s : State) : Result := regOp (byReg sllWord) 4#32 rd rs1 rs2 s
/-- R218 -/
def execSlt (rd rs1 rs2 : RegIdx) (s : State) : Result := regOp sltWord 4#32 rd rs1 rs2 s
/-- R219 -/
def execSltu (rd rs1 rs2 : RegIdx) (s : State) : Result := regOp sltuWord 4#32 rd rs1 rs2 s
/-- R220 -/
def execXor (rd rs1 rs2 : RegIdx) (s : State) : Result := regOp xorWord 4#32 rd rs1 rs2 s
/-- R221 -/
def execSrl (rd rs1 rs2 : RegIdx) (s : State) : Result := regOp (byReg srlWord) 4#32 rd rs1 rs2 s
/-- R222 -/
def execSra (rd rs1 rs2 : RegIdx) (s : State) : Result := regOp (byReg sraWord) 4#32 rd rs1 rs2 s
/-- R223 -/
def execOr (rd rs1 rs2 : RegIdx) (s : State) : Result := regOp orWord 4#32 rd rs1 rs2 s
/-- R224 -/
def execAnd (rd rs1 rs2 : RegIdx) (s : State) : Result := regOp andWord 4#32 rd rs1 rs2 s

end Sys2Proof.Machine
end

