-- ==== Sys2Proof/Machine/MulDiv.lean ====
section
/-! DEFINITION. Multiply and divide (44_muldiv.md). -/

namespace Sys2Proof.Machine

/-- R300 -/
def mulWord (a b : Word) : Word := BitVec.ofNat 32 (a.toNat * b.toNat)
/-- Bits 63..32 of an exact product, as a 64-bit two's-complement value. -/
def highWord (p : Int) : Word := (BitVec.ofInt 64 p).extractLsb' 32 32
/-- R301 -/
def mulhWord (a b : Word) : Word := highWord (a.toInt * b.toInt)
/-- R302 -/
def mulhsuWord (a b : Word) : Word := highWord (a.toInt * (b.toNat : Int))
/-- R303 -/
def mulhuWord (a b : Word) : Word := highWord ((a.toNat : Int) * (b.toNat : Int))
/-- R304: division by zero, overflow, else the quotient rounded toward zero (D37). -/
def divWord (a b : Word) : Word :=
  if b.toInt = 0 then 0xFFFFFFFF#32
  else if a.toInt = -2147483648 ∧ b.toInt = -1 then 0x80000000#32
  else BitVec.ofInt 32 (a.toInt.tdiv b.toInt)
/-- R305 -/
def divuWord (a b : Word) : Word := if b = 0#32 then 0xFFFFFFFF#32 else BitVec.ofNat 32 (a.toNat / b.toNat)
/-- R306 -/
def remWord (a b : Word) : Word :=
  if b.toInt = 0 then a
  else if a.toInt = -2147483648 ∧ b.toInt = -1 then 0#32
  else BitVec.ofInt 32 (a.toInt - b.toInt * a.toInt.tdiv b.toInt)
/-- R307 -/
def remuWord (a b : Word) : Word := if b = 0#32 then a else BitVec.ofNat 32 (a.toNat % b.toNat)

/-- R300 -/
def execMul (rd rs1 rs2 : RegIdx) (s : State) : Result := regOp mulWord 4#32 rd rs1 rs2 s
/-- R301 -/
def execMulh (rd rs1 rs2 : RegIdx) (s : State) : Result := regOp mulhWord 4#32 rd rs1 rs2 s
/-- R302 -/
def execMulhsu (rd rs1 rs2 : RegIdx) (s : State) : Result := regOp mulhsuWord 4#32 rd rs1 rs2 s
/-- R303 -/
def execMulhu (rd rs1 rs2 : RegIdx) (s : State) : Result := regOp mulhuWord 4#32 rd rs1 rs2 s
/-- R304 -/
def execDiv (rd rs1 rs2 : RegIdx) (s : State) : Result := regOp divWord 4#32 rd rs1 rs2 s
/-- R305 -/
def execDivu (rd rs1 rs2 : RegIdx) (s : State) : Result := regOp divuWord 4#32 rd rs1 rs2 s
/-- R306 -/
def execRem (rd rs1 rs2 : RegIdx) (s : State) : Result := regOp remWord 4#32 rd rs1 rs2 s
/-- R307 -/
def execRemu (rd rs1 rs2 : RegIdx) (s : State) : Result := regOp remuWord 4#32 rd rs1 rs2 s

end Sys2Proof.Machine
end

