-- ==== Sys2Proof/Machine/Control.lean ====
section
/-! DEFINITION. Control transfer (42_control_transfer.md). -/

namespace Sys2Proof.Machine

/-- JAL with a length: the target is computed before the link is written (R250, R442). -/
def jalOp (ilen : Word) (rd : RegIdx) (disp : Word) (s : State) : Result :=
  retireWith rd (s.pc + ilen) (s.pc + disp) s

/-- JALR with a length: the target is computed before the link is written (R251, R442). -/
def jalrOp (ilen : Word) (rd rs1 : RegIdx) (disp : Word) (s : State) : Result :=
  retireWith rd (s.pc + ilen) (clearBit0 (readReg rs1 s + disp)) s

/-- A conditional branch with a length; no register is written (42_control_transfer.md section 2). -/
def branchOp (cond : Word → Word → Bool) (ilen : Word) (rs1 rs2 : RegIdx) (disp : Word) (s : State) : Result :=
  .next (retire (if cond (readReg rs1 s) (readReg rs2 s) then s.pc + disp else s.pc + ilen) s)

/-- R252 -/
def condEq (a b : Word) : Bool := a == b
/-- R253 -/
def condNe (a b : Word) : Bool := a != b
/-- R255 -/
def geS (a b : Word) : Bool := decide (b.toInt ≤ a.toInt)
/-- R257 -/
def geU (a b : Word) : Bool := decide (b.toNat ≤ a.toNat)

/-- R250 -/
def execJal (rd : RegIdx) (off : BitVec 21) (s : State) : Result := jalOp 4#32 rd (sext off) s
/-- R251 -/
def execJalr (rd rs1 : RegIdx) (imm : BitVec 12) (s : State) : Result := jalrOp 4#32 rd rs1 (sext imm) s
/-- R252 -/
def execBeq (rs1 rs2 : RegIdx) (off : BitVec 13) (s : State) : Result := branchOp condEq 4#32 rs1 rs2 (sext off) s
/-- R253 -/
def execBne (rs1 rs2 : RegIdx) (off : BitVec 13) (s : State) : Result := branchOp condNe 4#32 rs1 rs2 (sext off) s
/-- R254 -/
def execBlt (rs1 rs2 : RegIdx) (off : BitVec 13) (s : State) : Result := branchOp ltS 4#32 rs1 rs2 (sext off) s
/-- R255 -/
def execBge (rs1 rs2 : RegIdx) (off : BitVec 13) (s : State) : Result := branchOp geS 4#32 rs1 rs2 (sext off) s
/-- R256 -/
def execBltu (rs1 rs2 : RegIdx) (off : BitVec 13) (s : State) : Result := branchOp ltU 4#32 rs1 rs2 (sext off) s
/-- R257 -/
def execBgeu (rs1 rs2 : RegIdx) (off : BitVec 13) (s : State) : Result := branchOp geU 4#32 rs1 rs2 (sext off) s

end Sys2Proof.Machine
end

