-- ==== Sys2Proof/Machine/LoadStore.lean ====
section
/-! DEFINITION. Loads and stores (43_load_store.md). -/

namespace Sys2Proof.Machine

/-- A load with a length: read at `ea`, extend, write `rd`; an address out of range halts (R270). -/
def loadOp (n : Width) (ext : Word → Word) (ilen : Word) (rd rs1 : RegIdx) (disp : Word) (s : State) : Result :=
  match memRead (effAddr rs1 disp s) n s with
  | some r => retireWith rd (ext r.1) (s.pc + ilen) r.2
  | none => halt .outOfRangeLoad (effAddr rs1 disp s) s

/-- A store with a length: write the low bytes of `x[rs2]` at `ea`; an address out of range halts (R270). -/
def storeOp (n : Width) (ilen : Word) (rs1 rs2 : RegIdx) (disp : Word) (s : State) : Result :=
  match memWrite (effAddr rs1 disp s) n (readReg rs2 s) s with
  | some t => .next (retire (s.pc + ilen) t)
  | none => halt .outOfRangeStore (effAddr rs1 disp s) s

/-- `sext_8` of an 8-bit value held zero-extended (R271) -/
def extS8 (v : Word) : Word := sext (v.extractLsb' 0 8)
/-- `sext_16` (R272) -/
def extS16 (v : Word) : Word := sext (v.extractLsb' 0 16)
/-- `zext_8` (R274) -/
def extU8 (v : Word) : Word := zext (v.extractLsb' 0 8)
/-- `zext_16` (R275) -/
def extU16 (v : Word) : Word := zext (v.extractLsb' 0 16)
/-- No extension (R273) -/
def extNone (v : Word) : Word := v

/-- R271 -/
def execLb (rd rs1 : RegIdx) (imm : BitVec 12) (s : State) : Result :=
  loadOp .byte extS8 4#32 rd rs1 (sext imm) s
/-- R272 -/
def execLh (rd rs1 : RegIdx) (imm : BitVec 12) (s : State) : Result :=
  loadOp .half extS16 4#32 rd rs1 (sext imm) s
/-- R273 -/
def execLw (rd rs1 : RegIdx) (imm : BitVec 12) (s : State) : Result :=
  loadOp .word extNone 4#32 rd rs1 (sext imm) s
/-- R274 -/
def execLbu (rd rs1 : RegIdx) (imm : BitVec 12) (s : State) : Result :=
  loadOp .byte extU8 4#32 rd rs1 (sext imm) s
/-- R275 -/
def execLhu (rd rs1 : RegIdx) (imm : BitVec 12) (s : State) : Result :=
  loadOp .half extU16 4#32 rd rs1 (sext imm) s
/-- R276 -/
def execSb (rs1 rs2 : RegIdx) (imm : BitVec 12) (s : State) : Result :=
  storeOp .byte 4#32 rs1 rs2 (sext imm) s
/-- R277 -/
def execSh (rs1 rs2 : RegIdx) (imm : BitVec 12) (s : State) : Result :=
  storeOp .half 4#32 rs1 rs2 (sext imm) s
/-- R278 -/
def execSw (rs1 rs2 : RegIdx) (imm : BitVec 12) (s : State) : Result :=
  storeOp .word 4#32 rs1 rs2 (sext imm) s

end Sys2Proof.Machine
end

