-- ==== Sys2Proof/Machine/Atomic.lean ====
section
/-! DEFINITION. LR.W, SC.W and the AMOs (45_atomic.md). -/

namespace Sys2Proof.Machine

/-- R335; `aq` and `rl` are ignored (R334). -/
def execLrW (rd rs1 : RegIdx) (_aq _rl : Bool) (s : State) : Result :=
  match memRead (readReg rs1 s) .word s with
  | some r => retireWith rd r.1 (s.pc + 4#32) (setResv (readReg rs1 s) r.2)
  | none => halt .outOfRangeLoad (readReg rs1 s) s

/-- The store-conditional succeeds (R332). -/
def scMatches (ea : Word) (s : State) : Bool := s.resvValid && s.resvAddr == ea

/-- R336; `aq` and `rl` are ignored (R334). -/
def execScW (rd rs1 rs2 : RegIdx) (_aq _rl : Bool) (s : State) : Result :=
  if scMatches (readReg rs1 s) s then
    match memWrite (readReg rs1 s) .word (readReg rs2 s) s with
    | some t => retireWith rd 0#32 (s.pc + 4#32) (clearResv t)
    | none => halt .outOfRangeStore (readReg rs1 s) s
  else retireWith rd 1#32 (s.pc + 4#32) (clearResv s)

/-- The read-modify-write of 45_atomic.md section 3: operands, then the read, then the write at the same address and
width, which cannot fail after the read (R475). -/
def amoOp (op : Word → Word → Word) (rd rs1 rs2 : RegIdx) (s : State) : Result :=
  match memRead (readReg rs1 s) .word s with
  | some r =>
    match memWrite (readReg rs1 s) .word (op r.1 (readReg rs2 s)) r.2 with
    | some t => retireWith rd r.1 (s.pc + 4#32) t
    | none => halt .outOfRangeStore (readReg rs1 s) s
  | none => halt .outOfRangeLoad (readReg rs1 s) s

/-- R337 -/
def amoSwap (_old b : Word) : Word := b
/-- R342 -/
def amoMin (old b : Word) : Word := if ltS old b then old else b
/-- R343 -/
def amoMax (old b : Word) : Word := if ltS b old then old else b
/-- R344 -/
def amoMinu (old b : Word) : Word := if ltU old b then old else b
/-- R345 -/
def amoMaxu (old b : Word) : Word := if ltU b old then old else b

/-- R337 -/
def execAmoswapW (rd rs1 rs2 : RegIdx) (_aq _rl : Bool) (s : State) : Result := amoOp amoSwap rd rs1 rs2 s
/-- R338 -/
def execAmoaddW (rd rs1 rs2 : RegIdx) (_aq _rl : Bool) (s : State) : Result := amoOp addWord rd rs1 rs2 s
/-- R339 -/
def execAmoxorW (rd rs1 rs2 : RegIdx) (_aq _rl : Bool) (s : State) : Result := amoOp xorWord rd rs1 rs2 s
/-- R340 -/
def execAmoandW (rd rs1 rs2 : RegIdx) (_aq _rl : Bool) (s : State) : Result := amoOp andWord rd rs1 rs2 s
/-- R341 -/
def execAmoorW (rd rs1 rs2 : RegIdx) (_aq _rl : Bool) (s : State) : Result := amoOp orWord rd rs1 rs2 s
/-- R342 -/
def execAmominW (rd rs1 rs2 : RegIdx) (_aq _rl : Bool) (s : State) : Result := amoOp amoMin rd rs1 rs2 s
/-- R343 -/
def execAmomaxW (rd rs1 rs2 : RegIdx) (_aq _rl : Bool) (s : State) : Result := amoOp amoMax rd rs1 rs2 s
/-- R344 -/
def execAmominuW (rd rs1 rs2 : RegIdx) (_aq _rl : Bool) (s : State) : Result := amoOp amoMinu rd rs1 rs2 s
/-- R345 -/
def execAmomaxuW (rd rs1 rs2 : RegIdx) (_aq _rl : Bool) (s : State) : Result := amoOp amoMaxu rd rs1 rs2 s

end Sys2Proof.Machine
end

