-- ==== Sys2Proof/Machine/System.lean ====
section
/-! DEFINITION. Fences, environment call and break, CSR instructions (46_system_csr.md). -/

namespace Sys2Proof.Machine

/-- Only the pc and the counter advance. -/
def nopOp (ilen : Word) (s : State) : Result := .next (retire (s.pc + ilen) s)

/-- R370; every field is ignored (D28). -/
def execFence (_fm _pred _succ : BitVec 4) (_rs1 _rd : RegIdx) (s : State) : Result := nopOp 4#32 s
/-- R371; every field is ignored (D28). -/
def execFenceI (_imm : BitVec 12) (_rs1 _rd : RegIdx) (s : State) : Result := nopOp 4#32 s
/-- R372 -/
def execEcall (s : State) : Result := envCall s
/-- R373 -/
def execEbreak (s : State) : Result := halt .breakpoint s.pc s
/-- R376 -/
def execCsrrw (rd : RegIdx) (csr : CsrIdx) (rs1 : RegIdx) (s : State) : Result := csrWriteOp rd csr (readReg rs1 s) s
/-- R377 -/
def execCsrrs (rd : RegIdx) (csr : CsrIdx) (rs1 : RegIdx) (s : State) : Result :=
  csrModifyOp csrSetBits rd csr (readReg rs1 s) rs1 s
/-- R378 -/
def execCsrrc (rd : RegIdx) (csr : CsrIdx) (rs1 : RegIdx) (s : State) : Result :=
  csrModifyOp csrClearBits rd csr (readReg rs1 s) rs1 s
/-- R379 -/
def execCsrrwi (rd : RegIdx) (csr : CsrIdx) (zimm : BitVec 5) (s : State) : Result := csrWriteOp rd csr (zext zimm) s
/-- R380 -/
def execCsrrsi (rd : RegIdx) (csr : CsrIdx) (zimm : BitVec 5) (s : State) : Result :=
  csrModifyOp csrSetBits rd csr (zext zimm) zimm s
/-- R381 -/
def execCsrrci (rd : RegIdx) (csr : CsrIdx) (zimm : BitVec 5) (s : State) : Result :=
  csrModifyOp csrClearBits rd csr (zext zimm) zimm s

end Sys2Proof.Machine
end

