-- ==== Sys2Proof/Machine/Compressed.lean ====
section
/-! DEFINITION. Compressed instructions: each executes as its expansion with `ilen = 2` (47_compressed.md R442). -/

namespace Sys2Proof.Machine

/-- R411 -/
def execCAddi4spn (rd : CReg) (nzuimm : BitVec 10) (s : State) : Result := immOp addWord 2#32 (cReg rd) 2#5 (zext nzuimm) s
/-- R412 -/
def execCLw (rd rs1 : CReg) (uimm : BitVec 7) (s : State) : Result :=
  loadOp .word extNone 2#32 (cReg rd) (cReg rs1) (zext uimm) s
/-- R413 -/
def execCSw (rs1 rs2 : CReg) (uimm : BitVec 7) (s : State) : Result :=
  storeOp .word 2#32 (cReg rs1) (cReg rs2) (zext uimm) s
/-- R414; the immediate is a hint (R441). -/
def execCNop (_imm : BitVec 6) (s : State) : Result := nopOp 2#32 s
/-- R415 -/
def execCAddi (rd : RegIdx) (imm : BitVec 6) (s : State) : Result := immOp addWord 2#32 rd rd (sext imm) s
/-- R416; the link is `pc + 2`. -/
def execCJal (off : BitVec 12) (s : State) : Result := jalOp 2#32 1#5 (sext off) s
/-- R417 -/
def execCLi (rd : RegIdx) (imm : BitVec 6) (s : State) : Result := setOp 2#32 rd (sext imm) s
/-- R418 -/
def execCAddi16sp (nzimm : BitVec 10) (s : State) : Result := immOp addWord 2#32 2#5 2#5 (sext nzimm) s
/-- R419 -/
def execCLui (rd : RegIdx) (imm : BitVec 6) (s : State) : Result := setOp 2#32 rd (immCLui imm) s
/-- R420 -/
def execCSrli (rd : CReg) (shamt : BitVec 5) (s : State) : Result := shiftOp srlWord 2#32 (cReg rd) (cReg rd) shamt s
/-- R421 -/
def execCSrai (rd : CReg) (shamt : BitVec 5) (s : State) : Result := shiftOp sraWord 2#32 (cReg rd) (cReg rd) shamt s
/-- R422 -/
def execCAndi (rd : CReg) (imm : BitVec 6) (s : State) : Result := immOp andWord 2#32 (cReg rd) (cReg rd) (sext imm) s
/-- R423 -/
def execCSub (rd rs2 : CReg) (s : State) : Result := regOp subWord 2#32 (cReg rd) (cReg rd) (cReg rs2) s
/-- R424 -/
def execCXor (rd rs2 : CReg) (s : State) : Result := regOp xorWord 2#32 (cReg rd) (cReg rd) (cReg rs2) s
/-- R425 -/
def execCOr (rd rs2 : CReg) (s : State) : Result := regOp orWord 2#32 (cReg rd) (cReg rd) (cReg rs2) s
/-- R426 -/
def execCAnd (rd rs2 : CReg) (s : State) : Result := regOp andWord 2#32 (cReg rd) (cReg rd) (cReg rs2) s
/-- R427; no register is written. -/
def execCJ (off : BitVec 12) (s : State) : Result := jalOp 2#32 0#5 (sext off) s
/-- R428 -/
def execCBeqz (rs1 : CReg) (off : BitVec 9) (s : State) : Result := branchOp condEq 2#32 (cReg rs1) 0#5 (sext off) s
/-- R429 -/
def execCBnez (rs1 : CReg) (off : BitVec 9) (s : State) : Result := branchOp condNe 2#32 (cReg rs1) 0#5 (sext off) s
/-- R430 -/
def execCSlli (rd : RegIdx) (shamt : BitVec 5) (s : State) : Result := shiftOp sllWord 2#32 rd rd shamt s
/-- R431 -/
def execCLwsp (rd : RegIdx) (uimm : BitVec 8) (s : State) : Result := loadOp .word extNone 2#32 rd 2#5 (zext uimm) s
/-- R432; no register is written. -/
def execCJr (rs1 : RegIdx) (s : State) : Result := jalrOp 2#32 0#5 rs1 0#32 s
/-- R433 -/
def execCMv (rd rs2 : RegIdx) (s : State) : Result := setOp 2#32 rd (readReg rs2 s) s
/-- R434 -/
def execCEbreak (s : State) : Result := halt .breakpoint s.pc s
/-- R435; the target is taken from the old `x[rs1]`, the link is `pc + 2`. -/
def execCJalr (rs1 : RegIdx) (s : State) : Result := jalrOp 2#32 1#5 rs1 0#32 s
/-- R436 -/
def execCAdd (rd rs2 : RegIdx) (s : State) : Result := regOp addWord 2#32 rd rd rs2 s
/-- R437 -/
def execCSwsp (rs2 : RegIdx) (uimm : BitVec 8) (s : State) : Result := storeOp .word 2#32 2#5 rs2 (zext uimm) s

end Sys2Proof.Machine
end

