-- ==== Sys2Proof/Machine/Debugger.lean ====
section
/-! DEFINITION. The debugger's rings (70_reset_and_hazards.md R584, R585): what a retiring step pushes, and what
reverse-step pops. -/

namespace Sys2Proof.Machine

/-- `SNAPSHOT_MAX` (R8) -/
def snapshotMax : Nat := 512

/-- `TRACE_MAX` (R8) -/
def traceMax : Nat := 10000

/-- Push on a ring, newest first; a full ring drops the oldest (R585). -/
def ringPush {α : Type} (cap : Nat) (x : α) (ring : List α) : List α := (x :: ring).take cap

/-- The snapshot of a state (R585). -/
def snapshotOf (s : State) : Snapshot where
  pc := s.pc
  regs := s.regs
  instret := s.instret

/-- The trace record of a step from `pre`; `cycle` is the counter before the increment (log 12). -/
def traceOf (pre : State) (e : Encoding) (i : Instr) : TraceRecord where
  cycle := pre.instret
  pc := pre.pc
  raw := e.raw
  instr := i

/-- The rings after a step from `pre` that ended in `post`: a step that halts or exits leaves them (R585, D40). -/
def recordStep (pre : State) (e : Encoding) (i : Instr) (post : State) : State :=
  { post with dbg :=
      if post.status = .running then
        { snapshots := ringPush snapshotMax (snapshotOf pre) post.dbg.snapshots
          trace := ringPush traceMax (traceOf pre e i) post.dbg.trace }
      else post.dbg }

/-- The state with the three things of a snapshot restored, and one record of each ring popped (R584). -/
def restore (p : Snapshot) (older : List Snapshot) (s : State) : State :=
  { s with
    pc := p.pc
    regs := p.regs
    instret := p.instret
    dbg := { snapshots := older, trace := s.dbg.trace.tail } }

/-- Reverse step; `none` is the negative acknowledgement of an empty ring, and nothing changes (R584). -/
def reverseStep (s : State) : Option State :=
  match s.dbg.snapshots with
  | [] => none
  | p :: older => some (restore p older s)

end Sys2Proof.Machine
end

