-- ==== Sys2Proof/Machine/HostActions.lean ====
section
/-! DEFINITION. What the host does between steps (70_reset_and_hazards.md R562, R580 to R587), and the supply of its
answers (R504, R507, R531). Creation is `State.create`. -/

namespace Sys2Proof.Machine

/-- The state after a program load that fits (R562, R563). -/
def loaded (bytes : List Byte) (addr entry : Word) (s : State) : State :=
  resvSnoop addr.toNat bytes.length
    { s with
      regs := Vector.replicate 32 0#32
      pc := entry
      instret := 0#64
      mem := writeBytes s.mem addr.toNat bytes
      dev := { s.dev with quit := false }
      status := .running
      dbg := { snapshots := [], trace := [] } }

/-- `LoadImage` (R562); `none` is its Error, and nothing changes (R474). Edit mode's exit is this with the reassembled
bytes (R587). -/
def loadImage (bytes : List Byte) (addr entry : Word) (s : State) : Option State :=
  if addr.toNat + bytes.length ≤ s.cfg.memSize then some (loaded bytes addr entry s) else none

/-- Append bytes to `uart_in` (R521, R580). -/
def feedUart (bytes : List Byte) (s : State) : State :=
  { s with dev := { s.dev with uartIn := s.dev.uartIn ++ bytes } }

/-- Push a keyboard event; a full queue drops it (R541). -/
def pushKey (event : Word) (s : State) : State :=
  { s with dev := { s.dev with
      kbdQ := if s.dev.kbdQ.length < s.cfg.kbdQueueCap then s.dev.kbdQ ++ [event] else s.dev.kbdQ } }

/-- Set the quit flag (R176, R580). -/
def setQuit (s : State) : State := { s with dev := { s.dev with quit := true } }

/-- Read register by index (R581). -/
def hostReadReg (r : RegIdx) (s : State) : Word := readReg r s

/-- Read memory byte by address: RAM, never a device; 0 outside RAM (R581). -/
def hostReadByte (a : Word) (s : State) : Byte := if a.toNat < s.cfg.memSize then memByte s a.toNat else 0#8

/-- Write memory byte by address; nothing outside RAM (R582). -/
def hostWriteByte (a : Word) (b : Byte) (s : State) : State :=
  if a.toNat < s.cfg.memSize then writeRam a.toNat [b] s else s

/-- Save binary: the `n` bytes from an address, of those in RAM (R583). -/
def saveBinary (a : Word) (n : Nat) (s : State) : List Byte :=
  readBytes s.mem a.toNat (min n (s.cfg.memSize - a.toNat))

/-- Supply host clock readings for the next draws (R531; log 4). -/
def supplyClock (samples : List Dword) (s : State) : State :=
  { s with env := { s.env with clockSamples := s.env.clockSamples ++ samples } }

/-- Supply answers for the next `HostRead` calls (R504; log 5). -/
def supplyRead (answers : List (List Byte)) (s : State) : State :=
  { s with env := { s.env with hostReads := s.env.hostReads ++ answers } }

/-- Supply answers for the next `HostMmap` calls (R507; log 6). -/
def supplyMmap (answers : List (Option Word)) (s : State) : State :=
  { s with env := { s.env with mmapAnswers := s.env.mmapAnswers ++ answers } }

/-- The host's actions that change the state (R580). -/
inductive HostAction where
  | loadImage (bytes : List Byte) (addr entry : Word)
  | feedUart (bytes : List Byte)
  | pushKey (event : Word)
  | setQuit
  | writeByte (a : Word) (b : Byte)
  | reverseStep
  | supplyClock (samples : List Dword)
  | supplyRead (answers : List (List Byte))
  | supplyMmap (answers : List (Option Word))
  deriving DecidableEq, Repr

/-- A host action; `none` is a negative result, and nothing changes. -/
def hostAct : HostAction → State → Option State
  | .loadImage bytes addr entry, s => loadImage bytes addr entry s
  | .feedUart bytes, s => some (feedUart bytes s)
  | .pushKey event, s => some (pushKey event s)
  | .setQuit, s => some (setQuit s)
  | .writeByte a b, s => some (hostWriteByte a b s)
  | .reverseStep, s => reverseStep s
  | .supplyClock samples, s => some (supplyClock samples s)
  | .supplyRead answers, s => some (supplyRead answers s)
  | .supplyMmap answers, s => some (supplyMmap answers s)

end Sys2Proof.Machine
end

