-- ==== Sys2Proof/Machine/Cycle.lean ====
section
/-! DEFINITION. The work of a step from a running state with no quit pending: fetch, decode, execute, record
(40_step_cycle.md R171 to R175, R178). -/

namespace Sys2Proof.Machine

/-- The rings are written after a next state only. -/
def recordResult (pre : State) (e : Encoding) (i : Instr) : Result → Result
  | .next t => .next (recordStep pre e i t)
  | .fault f => .fault f
  | .refused r => .refused r

/-- Decode and execute what was fetched (R172, R173). -/
def runEncoding (e : Encoding) (s : State) : Result :=
  match decodeEncoding e with
  | some i => recordResult s e i (exec i s)
  | none => halt .illegalInstruction e.raw s

/-- Fetch, decode and execute, in the order of R475. -/
def runFetched (s : State) : Result :=
  match fetch s with
  | .ok e => runEncoding e s
  | .fatal r a => halt r a s

/-- The address at which `State.withFetchWord` places an instruction: the pc, or 0 where no step could fetch four bytes
there. -/
def placePc (s : State) : Word := if s.pc.getLsbD 0 = false ∧ s.pc.toNat + 4 ≤ s.cfg.memSize then s.pc else 0#32

end Sys2Proof.Machine
end

