-- ==== Sys2Proof/Machine/Step.lean ====
section
/-! DEFINITION. The step (40_step_cycle.md R170, R176, R178). -/

namespace Sys2Proof.Machine

/-- One step. A state that is not running has none; a set quit flag is seen before any fetch. -/
def step (s : State) : Host.Outcome State Fault Refusal :=
  if s.status = .running then (if s.dev.quit then quitRun s else runFetched s)
  else .fault (.notRunning s.status)

/-- The state with an instruction stored where the next step fetches it, running and with no quit pending (logs 9, 10). -/
def State.withFetchWord (s : State) (nbits w : Nat) : State :=
  { s with
    pc := placePc s
    mem := writeBytes s.mem (placePc s).toNat (tableBytes nbits w)
    dev := { s.dev with quit := false }
    status := .running }

end Sys2Proof.Machine
end

