-- ==== Sys2Proof/Safety.lean ====
section
/-! DEFINITION. What a run shows and what every run keeps: the ends of a run, the host's exit status, the machine's
invariant, runs of retiring steps. -/

namespace Sys2Proof.Machine

/-- The number of a halt (R470, D45). -/
def HaltReason.code : HaltReason → Nat
  | .misalignedFetch => 0
  | .fetchOutOfRange => 1
  | .illegalInstruction => 2
  | .breakpoint => 3
  | .outOfRangeLoad => 5
  | .outOfRangeStore => 7

/-- The host exit statuses an end of a run allows (R182, R471, R503, R547). -/
def exitStatusAllowed : RunStatus → Nat → Prop
  | .running, _ => False
  | .halted _ _, n => n ≠ 0
  | .exited code, n => n = code.toNat % 256
  | .quit, n => n = 0

/-- A step that retires: it answers a next state that is still running (R170). -/
def stepRetires (s t : State) : Prop := step s = .next t ∧ t.status = .running

/-- `n` retiring steps in a row. -/
def retires : Nat → State → State → Prop
  | 0, s, t => t = s
  | n + 1, s, t => ∃ u, stepRetires s u ∧ retires n u t

/-- `n` reverse steps in a row. -/
def reverses : Nat → State → Option State
  | 0, s => some s
  | n + 1, s =>
    match reverseStep s with
    | some t => reverses n t
    | none => none

/-- The canonical plain CSR storage: rising indices below 4096, no value 0, no counter index (R38, R40). -/
abbrev csrmemWf (m : List (Nat × Word)) : Prop :=
  Sparse.wf m ∧ ∀ e ∈ m, e.1 < 4096 ∧ BitVec.ofNat 12 e.1 ∉ counterCsrs

/-- What every step and every host action keeps. -/
structure Inv (s : State) : Prop where
  /-- The configuration is one of those R8 and R9 allow. -/
  cfg : ConfigOk s.cfg
  mem : Memory.wf s.mem
  /-- RAM ends at `MEM_SIZE` (R71). -/
  memEnd : ∀ e ∈ s.mem, e.1 < s.cfg.memSize
  fb : Memory.wf s.dev.fb
  fbEnd : ∀ e ∈ s.dev.fb, e.1 < fbSize
  csr : csrmemWf s.csrmem
  /-- x0 is zero after every step (R31). -/
  x0 : s.regs[0] = 0#32
  /-- The keyboard queue is bounded (R541). -/
  kbd : s.dev.kbdQ.length ≤ s.cfg.kbdQueueCap
  /-- A valid reservation is at an address an LR.W can read (R334). -/
  resv : s.resvValid = true → classify s.cfg s.resvAddr 4 ≠ .outOfRange
  /-- No clock reading is before the timer's origin (R531). -/
  clock : s.env.t0Host ≤ s.env.clockLast
  /-- The rings are bounded (R49). -/
  snapshots : s.dbg.snapshots.length ≤ snapshotMax
  trace : s.dbg.trace.length ≤ traceMax
  snapshotX0 : ∀ p ∈ s.dbg.snapshots, p.regs[0] = 0#32

/-- The pc is even (R35). -/
abbrev PcEven (s : State) : Prop := s.pc.getLsbD 0 = false

/-! ### What an instruction does, for statements about `exec` -/

/-- The shapes of the instructions. -/
inductive Kind where
  | alu | jump | branch | load | store | lr | sc | amo | fence | ecall | ebreak | csr
  deriving DecidableEq, Repr

/-- The shape of an instruction. -/
def kind : Instr → Kind
  | .lui _ _ => .alu
  | .auipc _ _ => .alu
  | .jal _ _ => .jump
  | .jalr _ _ _ => .jump
  | .beq _ _ _ => .branch
  | .bne _ _ _ => .branch
  | .blt _ _ _ => .branch
  | .bge _ _ _ => .branch
  | .bltu _ _ _ => .branch
  | .bgeu _ _ _ => .branch
  | .lb _ _ _ => .load
  | .lh _ _ _ => .load
  | .lw _ _ _ => .load
  | .lbu _ _ _ => .load
  | .lhu _ _ _ => .load
  | .sb _ _ _ => .store
  | .sh _ _ _ => .store
  | .sw _ _ _ => .store
  | .addi _ _ _ => .alu
  | .slti _ _ _ => .alu
  | .sltiu _ _ _ => .alu
  | .xori _ _ _ => .alu
  | .ori _ _ _ => .alu
  | .andi _ _ _ => .alu
  | .slli _ _ _ => .alu
  | .srli _ _ _ => .alu
  | .srai _ _ _ => .alu
  | .add _ _ _ => .alu
  | .sub _ _ _ => .alu
  | .sll _ _ _ => .alu
  | .slt _ _ _ => .alu
  | .sltu _ _ _ => .alu
  | .xor _ _ _ => .alu
  | .srl _ _ _ => .alu
  | .sra _ _ _ => .alu
  | .or _ _ _ => .alu
  | .and _ _ _ => .alu
  | .mul _ _ _ => .alu
  | .mulh _ _ _ => .alu
  | .mulhsu _ _ _ => .alu
  | .mulhu _ _ _ => .alu
  | .div _ _ _ => .alu
  | .divu _ _ _ => .alu
  | .rem _ _ _ => .alu
  | .remu _ _ _ => .alu
  | .fence _ _ _ _ _ => .fence
  | .fenceI _ _ _ => .fence
  | .ecall => .ecall
  | .ebreak => .ebreak
  | .csrrw _ _ _ => .csr
  | .csrrs _ _ _ => .csr
  | .csrrc _ _ _ => .csr
  | .csrrwi _ _ _ => .csr
  | .csrrsi _ _ _ => .csr
  | .csrrci _ _ _ => .csr
  | .lrW _ _ _ _ => .lr
  | .scW _ _ _ _ _ => .sc
  | .amoswapW _ _ _ _ _ => .amo
  | .amoaddW _ _ _ _ _ => .amo
  | .amoxorW _ _ _ _ _ => .amo
  | .amoandW _ _ _ _ _ => .amo
  | .amoorW _ _ _ _ _ => .amo
  | .amominW _ _ _ _ _ => .amo
  | .amomaxW _ _ _ _ _ => .amo
  | .amominuW _ _ _ _ _ => .amo
  | .amomaxuW _ _ _ _ _ => .amo
  | .cAddi4spn _ _ => .alu
  | .cLw _ _ _ => .load
  | .cSw _ _ _ => .store
  | .cNop _ => .alu
  | .cAddi _ _ => .alu
  | .cJal _ => .jump
  | .cLi _ _ => .alu
  | .cAddi16sp _ => .alu
  | .cLui _ _ => .alu
  | .cSrli _ _ => .alu
  | .cSrai _ _ => .alu
  | .cAndi _ _ => .alu
  | .cSub _ _ => .alu
  | .cXor _ _ => .alu
  | .cOr _ _ => .alu
  | .cAnd _ _ => .alu
  | .cJ _ => .jump
  | .cBeqz _ _ => .branch
  | .cBnez _ _ => .branch
  | .cSlli _ _ => .alu
  | .cLwsp _ _ => .load
  | .cJr _ => .jump
  | .cMv _ _ => .alu
  | .cEbreak => .ebreak
  | .cJalr _ => .jump
  | .cAdd _ _ => .alu
  | .cSwsp _ _ => .store

/-- `t` is `s` after one retired instruction that gives `rd` the value `v` (x0 stays 0) and continues at `nextPc`: every
other register, every byte of RAM and every other piece of state is as in `s`. -/
structure WritesReg (s : State) (rd : RegIdx) (v nextPc : Word) (t : State) : Prop where
  value : readReg rd t = if rd = 0#5 then 0#32 else v
  others : ∀ r : RegIdx, r ≠ rd → readReg r t = readReg r s
  x0 : t.regs[0] = 0#32
  pc : t.pc = nextPc
  count : t.instret = s.instret + 1#64
  bytes : ∀ a, memByte t a = memByte s a
  rest : { t with regs := s.regs, pc := s.pc, instret := s.instret } = s

/-- `u` is `s` with the bytes `bs` stored in RAM from address `a` on: every other byte and every other piece of state is
as in `s`, but that the store clears a reservation whose four bytes it touches (R331). -/
structure StoresBytes (s : State) (a : Nat) (bs : List Byte) (u : State) : Prop where
  stored : ∀ k (h : k < bs.length), memByte u (a + k) = bs[k]
  kept : ∀ b, b < a ∨ a + bs.length ≤ b → memByte u b = memByte s b
  resv : u.resvValid = true ↔ s.resvValid = true ∧
    (bs.length = 0 ∨ a + bs.length ≤ s.resvAddr.toNat ∨ s.resvAddr.toNat + 4 ≤ a)
  rest : { u with mem := s.mem, resvValid := s.resvValid } = s

/-- `u` is `s` after an answer of the host: what the host's answers stand in may differ, and nothing else; what was emitted,
the break and the timer's origin are as in `s`. -/
structure OnlyDraws (s u : State) : Prop where
  bytes : ∀ a, memByte u a = memByte s a
  out : u.env.out = s.env.out
  brk : u.env.brk = s.env.brk
  origin : u.env.t0Host = s.env.t0Host
  rest : { u with env := s.env } = s

/-- `u` is `s` with the CSR index `c` reading `new`: every other index and every other piece of state is as in `s`. -/
structure StoresCsr (s : State) (c : CsrIdx) (new : Word) (u : State) : Prop where
  stored : sparseGet u.csrmem c.toNat = new
  kept : ∀ d : CsrIdx, d ≠ c → sparseGet u.csrmem d.toNat = sparseGet s.csrmem d.toNat
  rest : { u with csrmem := s.csrmem } = s

/-- The instruction completes at `s`: with the other effects that lead from `s` to `u`, it gives `rd` the value `v`,
continues at `nextPc` and retires. -/
def CompletesFrom (i : Instr) (s u : State) (rd : RegIdx) (v nextPc : Word) : Prop :=
  ∃ t, exec i s = .next t ∧ WritesReg u rd v nextPc t

/-- The instruction completes at `s` with no other effect than a register, the pc and the counter. -/
def Completes (i : Instr) (s : State) (rd : RegIdx) (v nextPc : Word) : Prop := CompletesFrom i s s rd v nextPc

/-- The instruction completes at `s` and writes no register. -/
def Continues (i : Instr) (s : State) (nextPc : Word) : Prop := Completes i s 0#5 0#32 nextPc

/-- The instruction halts at `s`: nothing changes but the status. -/
def HaltsWith (i : Instr) (s : State) (reason : HaltReason) (info : Word) : Prop :=
  exec i s = .next { s with status := .halted reason info }

/-- `n` steps in a row, of any kind. -/
def reaches : Nat → State → State → Prop
  | 0, s, t => t = s
  | n + 1, s, t => ∃ u, step s = .next u ∧ reaches n u t

/-- The halfword of RAM at an address (R82). -/
def ramHalf (s : State) (a : Nat) : Half := memByte s (a + 1) ++ memByte s a

/-! ### The layouts of a word, bit 31 on the left (R122), for statements about the decoder -/

def LayoutR (f7 : BitVec 7) (f3 : BitVec 3) (op : BitVec 7) (mk : RegIdx → RegIdx → RegIdx → Instr) : Prop :=
  ∀ rs2 rs1 rd : BitVec 5, decodeEncoding (.word (f7 ++ rs2 ++ rs1 ++ f3 ++ rd ++ op)) = some (mk rd rs1 rs2)

def LayoutI (f3 : BitVec 3) (op : BitVec 7) (mk : RegIdx → RegIdx → BitVec 12 → Instr) : Prop :=
  ∀ (imm : BitVec 12) (rs1 rd : BitVec 5),
    decodeEncoding (.word (imm ++ rs1 ++ f3 ++ rd ++ op)) = some (mk rd rs1 imm)

def LayoutS (f3 : BitVec 3) (op : BitVec 7) (mk : RegIdx → RegIdx → BitVec 12 → Instr) : Prop :=
  ∀ (hi : BitVec 7) (rs2 rs1 lo : BitVec 5),
    decodeEncoding (.word (hi ++ rs2 ++ rs1 ++ f3 ++ lo ++ op)) = some (mk rs1 rs2 (hi ++ lo))

def LayoutB (f3 : BitVec 3) (op : BitVec 7) (mk : RegIdx → RegIdx → BitVec 13 → Instr) : Prop :=
  ∀ (b12 : BitVec 1) (b10 : BitVec 6) (rs2 rs1 : BitVec 5) (b4 : BitVec 4) (b11 : BitVec 1),
    decodeEncoding (.word (b12 ++ b10 ++ rs2 ++ rs1 ++ f3 ++ b4 ++ b11 ++ op)) =
      some (mk rs1 rs2 (b12 ++ b11 ++ b10 ++ b4 ++ 0#1))

def LayoutU (op : BitVec 7) (mk : RegIdx → BitVec 20 → Instr) : Prop :=
  ∀ (imm : BitVec 20) (rd : BitVec 5), decodeEncoding (.word (imm ++ rd ++ op)) = some (mk rd imm)

def LayoutJ (op : BitVec 7) (mk : RegIdx → BitVec 21 → Instr) : Prop :=
  ∀ (b20 : BitVec 1) (b10 : BitVec 10) (b11 : BitVec 1) (b19 : BitVec 8) (rd : BitVec 5),
    decodeEncoding (.word (b20 ++ b10 ++ b11 ++ b19 ++ rd ++ op)) = some (mk rd (b20 ++ b19 ++ b11 ++ b10 ++ 0#1))

def LayoutA (f5 : BitVec 5) (mk : RegIdx → RegIdx → RegIdx → Bool → Bool → Instr) : Prop :=
  ∀ (aq rl : Bool) (rs2 rs1 rd : BitVec 5),
    decodeEncoding (.word (f5 ++ BitVec.ofBool aq ++ BitVec.ofBool rl ++ rs2 ++ rs1 ++ 2#3 ++ rd ++ 0x2F#7)) =
      some (mk rd rs1 rs2 aq rl)

def LayoutCsr (f3 : BitVec 3) (mk : RegIdx → CsrIdx → BitVec 5 → Instr) : Prop :=
  ∀ (csr : BitVec 12) (src rd : BitVec 5),
    decodeEncoding (.word (csr ++ src ++ f3 ++ rd ++ 0x73#7)) = some (mk rd csr src)

end Sys2Proof.Machine
end

