-- ==== Sys2Proof/Certificates/Slice0/Obligations.lean ====
section
/-! DEFINITION. The statements for the provers. -/

open Sys2Proof Sys2Proof.Machine

/-! ### The machine as a whole -/

/-- R50's table, both columns, and R562: what creation gives each piece of state, what a program load that fits leaves in
it, and that one that does not fit is refused. The reservation after a load is R562's: the copy's snoop alone may clear it
(its four bytes do not wrap: log 14). (`t0_host` has no number in the spec.) -/
def Obligations.CreationAndLoadValues : Prop :=
  (∀ (c : Config) (s : State), s = State.create c →
    (∀ r, readReg r s = 0#32) ∧ s.regs = Vector.replicate 32 0#32 ∧ s.pc = 0#32 ∧ s.instret = 0#64 ∧
    (∀ a, memByte s a = 0#8) ∧ (∀ c : CsrIdx, sparseGet s.csrmem c.toNat = 0#32) ∧
    s.resvValid = false ∧ s.resvAddr = 0#32 ∧ s.dev.uartIn = [] ∧ s.dev.kbdQ = [] ∧
    (∀ o, fbByte s o = 0#8) ∧ s.dev.quit = false ∧ s.env.brk = c.brkInit ∧ s.status = .running ∧
    s.dbg.snapshots = [] ∧ s.dbg.trace = [] ∧ s.cfg = c) ∧
  (∀ (bytes : List Byte) (addr entry : Word) (s : State), addr.toNat + bytes.length ≤ s.cfg.memSize →
    ∃ t, loadImage bytes addr entry s = some t ∧
      (∀ r, readReg r t = 0#32) ∧ t.regs = Vector.replicate 32 0#32 ∧ t.pc = entry ∧ t.instret = 0#64 ∧
      (∀ k (h : k < bytes.length), memByte t (addr.toNat + k) = bytes[k]) ∧
      (∀ a, a < addr.toNat ∨ addr.toNat + bytes.length ≤ a → memByte t a = memByte s a) ∧
      t.csrmem = s.csrmem ∧ t.resvAddr = s.resvAddr ∧
      (t.resvValid = true ↔ s.resvValid = true ∧ (bytes.length = 0 ∨
        addr.toNat + bytes.length ≤ s.resvAddr.toNat ∨ s.resvAddr.toNat + 4 ≤ addr.toNat)) ∧
      t.dev = { s.dev with quit := false } ∧ t.env = s.env ∧ t.status = .running ∧
      t.dbg.snapshots = [] ∧ t.dbg.trace = [] ∧ t.cfg = s.cfg) ∧
  (∀ (bytes : List Byte) (addr entry : Word) (s : State), s.cfg.memSize < addr.toNat + bytes.length →
    loadImage bytes addr entry s = none)

/-- The invariant holds right after creation with the configuration of log 2 (the model's choice of the open values). -/
def Obligations.InvAtReset : Prop := Inv State.reset

/-- The invariant is kept by every step, from every state that meets it. -/
def Obligations.InvKeptByStep : Prop := ∀ s t : State, Inv s → step s = .next t → Inv t

/-- The invariant is kept by every host action that is not refused. -/
def Obligations.InvKeptByHost : Prop := ∀ (x : HostAction) (s t : State), Inv s → hostAct x s = some t → Inv t

/-- R35: from an even pc a step leads to an even pc. -/
def Obligations.PcStaysEven : Prop := ∀ s t : State, PcEven s → step s = .next t → PcEven t

/-- R170: a running state has a step, and it ends in one of four ways: the instruction retires and counts once, or the
status alone changes (a halt, the exit call, the quit flag); a state that is not running has no step (R47). -/
def Obligations.StepOutcomes : Prop :=
  (∀ s : State, s.status = .running → ∃ t, step s = .next t ∧
    ((t.status = .running ∧ t.instret = s.instret + 1#64) ∨
     (∃ r a, t = { s with status := .halted r a }) ∨
     (∃ c, t = { s with status := .exited c }) ∨
     (s.dev.quit = true ∧ t = { s with status := .quit }))) ∧
  (∀ s : State, s.status ≠ .running → step s = .fault (.notRunning s.status))

/-- R176: the host sets the quit flag, or a store does, and that step retires; with the flag set a running state's step
fetches nothing and ends the run as Quit, whatever stands at the pc, with exit status 0; no other step gives Quit. -/
def Obligations.QuitStep : Prop :=
  (∀ s : State, s.status = .running → s.dev.quit = true → step s = .next { s with status := .quit }) ∧
  (∀ s t : State, s.status = .running → s.dev.quit = false → step s = .next t → t.status ≠ .quit) ∧
  (∀ s t : State, s.status = .running → s.dev.quit = false → step s = .next t → t.dev.quit = true →
    t.status = .running ∧ t.instret = s.instret + 1#64) ∧
  (∀ s : State, hostAct .setQuit s = some { s with dev := { s.dev with quit := true } }) ∧
  (∀ n, exitStatusAllowed .quit n ↔ n = 0)

/-- The order of work of R475: each condition, met in its turn, gives its halt, and only the status changes. -/
def Obligations.HaltPriority : Prop :=
  ∀ s : State, s.status = .running → s.dev.quit = false →
    (s.pc.getLsbD 0 = true → step s = .next { s with status := .halted .misalignedFetch s.pc }) ∧
    (s.pc.getLsbD 0 = false → s.cfg.memSize < s.pc.toNat + 2 →
      step s = .next { s with status := .halted .fetchOutOfRange s.pc }) ∧
    (s.pc.getLsbD 0 = false → s.pc.toNat + 2 ≤ s.cfg.memSize →
      ((ramHalf s s.pc.toNat).extractLsb' 0 2 ≠ 3#2 →
        (∀ i, decode16 (ramHalf s s.pc.toNat) ≠ some i) →
        step s = .next { s with
          status := .halted .illegalInstruction ((ramHalf s s.pc.toNat).zeroExtend 32) }) ∧
      ((ramHalf s s.pc.toNat).extractLsb' 0 2 = 3#2 →
        s.cfg.memSize < (s.pc + 2#32).toNat + 2 →
        step s = .next { s with status := .halted .fetchOutOfRange (s.pc + 2#32) }) ∧
      ((ramHalf s s.pc.toNat).extractLsb' 0 2 = 3#2 →
        (s.pc + 2#32).toNat + 2 ≤ s.cfg.memSize →
        (∀ i, decode32 (ramHalf s (s.pc + 2#32).toNat ++ ramHalf s s.pc.toNat) ≠ some i) →
        step s = .next { s with
          status := .halted .illegalInstruction (ramHalf s (s.pc + 2#32).toNat ++ ramHalf s s.pc.toNat) }))

/-- R171 to R173: where the bytes at an even pc in RAM decode to an instruction, the step is that instruction's `exec`,
with the debugger's rings written when it retires (`recordStep`). -/
def Obligations.StepRunsDecoded : Prop :=
  ∀ (s : State) (i : Instr), s.status = .running → s.dev.quit = false → s.pc.getLsbD 0 = false →
    s.pc.toNat + 2 ≤ s.cfg.memSize →
    ((ramHalf s s.pc.toNat).extractLsb' 0 2 ≠ 3#2 → decode16 (ramHalf s s.pc.toNat) = some i →
      ∀ t, exec i s = .next t → step s = .next (recordStep s (.half (ramHalf s s.pc.toNat)) i t)) ∧
    ((ramHalf s s.pc.toNat).extractLsb' 0 2 = 3#2 → (s.pc + 2#32).toNat + 2 ≤ s.cfg.memSize →
      decode32 (ramHalf s (s.pc + 2#32).toNat ++ ramHalf s s.pc.toNat) = some i →
      ∀ t, exec i s = .next t →
        step s = .next (recordStep s (.word (ramHalf s (s.pc + 2#32).toNat ++ ramHalf s s.pc.toNat)) i t))

/-- R177: a step that halts leaves everything but the status, the rings too (R585); so does a step that exits or quits. -/
def Obligations.HaltChangesNothing : Prop :=
  ∀ s t : State, step s = .next t → t.status ≠ .running → t = { s with status := t.status }

/-- R175: after `n` retiring steps the counter has grown by exactly `n`, modulo 2^64; a step that ends the run does not
count. -/
def Obligations.CounterCountsSteps : Prop :=
  (∀ (n : Nat) (s t : State), retires n s t → t.instret = s.instret + BitVec.ofNat 64 n) ∧
  (∀ s t : State, step s = .next t → t.status ≠ .running → t.instret = s.instret)

/-- What a retiring step puts on the debugger's rings (R585): the snapshot of the state before it, and a record of its pc,
its encoding, the instruction that decodes to and the counter as it was before the increment (log 12); a full ring drops
its oldest. -/
def Obligations.RingsAfterStep : Prop :=
  ∀ s t : State, stepRetires s t →
    t.dbg.snapshots = ({ pc := s.pc, regs := s.regs, instret := s.instret } :: s.dbg.snapshots).take 512 ∧
    ∃ r : TraceRecord, t.dbg.trace = (r :: s.dbg.trace).take 10000 ∧ r.cycle = s.instret ∧ r.pc = s.pc ∧
      ((ramHalf s s.pc.toNat).extractLsb' 0 2 ≠ 3#2 → r.raw = (ramHalf s s.pc.toNat).zeroExtend 32 ∧
        decode16 (ramHalf s s.pc.toNat) = some r.instr) ∧
      ((ramHalf s s.pc.toNat).extractLsb' 0 2 = 3#2 →
        r.raw = ramHalf s (s.pc + 2#32).toNat ++ ramHalf s s.pc.toNat ∧
        decode32 (ramHalf s (s.pc + 2#32).toNat ++ ramHalf s s.pc.toNat) = some r.instr)

/-- R584: after `k` retiring steps, `k` at most 512, `k` reverse steps restore the pc, the register file and the counter,
and undo nothing else; each pops the newest entry of both rings; with an empty ring a reverse step is refused. -/
def Obligations.ReverseRestores : Prop :=
  (∀ (k : Nat) (s t : State), k ≤ 512 → retires k s t →
    ∃ u, reverses k t = some u ∧ u.pc = s.pc ∧ u.regs = s.regs ∧ u.instret = s.instret ∧
      u.cfg = t.cfg ∧ u.mem = t.mem ∧ u.csrmem = t.csrmem ∧ u.resvValid = t.resvValid ∧ u.resvAddr = t.resvAddr ∧
      u.dev = t.dev ∧ u.env = t.env ∧ u.status = t.status) ∧
  (∀ s t : State, reverseStep s = some t →
    t.dbg.snapshots = s.dbg.snapshots.tail ∧ t.dbg.trace = s.dbg.trace.tail) ∧
  (∀ s : State, s.dbg.snapshots = [] → reverseStep s = none)

/-- R560: no step changes the configuration or the timer's origin, and no host action does. -/
def Obligations.CreationIsFixed : Prop :=
  (∀ s t : State, step s = .next t → t.cfg = s.cfg ∧ t.env.t0Host = s.env.t0Host) ∧
  (∀ (x : HostAction) (s t : State), hostAct x s = some t → t.cfg = s.cfg ∧ t.env.t0Host = s.env.t0Host)

/-- R30: an instruction writes at most one general register; R31: x0 is 0 after every step that retires. -/
def Obligations.OneRegisterPerStep : Prop :=
  (∀ (i : Instr) (s t : State), exec i s = .next t → ∃ rd, ∀ r, r ≠ rd → readReg r t = readReg r s) ∧
  (∀ s t : State, stepRetires s t → t.regs[0] = 0#32 ∧ readReg 0#5 t = 0#32)

/-- Which shapes of instruction may change RAM, the devices, the environment, the CSR storage. -/
def Obligations.WhoChangesWhat : Prop :=
  ∀ (i : Instr) (s t : State), exec i s = .next t →
    (kind i ∉ [.store, .sc, .amo, .ecall] → t.mem = s.mem ∧ ∀ a, memByte t a = memByte s a) ∧
    (kind i ∉ [.load, .store, .lr, .sc, .amo] → t.dev = s.dev) ∧
    (kind i ∉ [.load, .store, .lr, .sc, .amo, .ecall, .csr] → t.env = s.env) ∧
    (kind i ≠ .csr → t.csrmem = s.csrmem) ∧
    (kind i ≠ .lr → t.resvAddr = s.resvAddr) ∧
    t.dbg = s.dbg ∧ t.cfg = s.cfg

/-- R41, R480: the plain CSR storage changes nothing else: an instruction that is not a CSR instruction does the same
whatever the CSRs hold. -/
def Obligations.CsrStorageIsInert : Prop :=
  ∀ (i : Instr) (s t : State) (m : List (Nat × Word)), kind i ≠ .csr → exec i s = .next t →
    exec i { s with csrmem := m } = .next { t with csrmem := m }

/-! ### Encoding -/

/-- Every well-formed instruction is what the decoder reads from its encoding, with every operand at every value, and from
its bytes at the head of any bytes. -/
def Obligations.DecodeEncode : Prop :=
  ∀ i : Instr, i.wf = true →
    decodeEncoding (encode i) = some i ∧
    ∀ rest, decodeBytes ((encode i).bytes ++ rest) = .ok (i, rest)

/-- Every encoding the decoder accepts is the encoding of the well-formed instruction it gives: no bit is dropped, and no
two encodings give one instruction. -/
def Obligations.EncodeDecode : Prop :=
  ∀ (e : Encoding) (i : Instr), decodeEncoding e = some i → encode i = e ∧ i.wf = true

/-- R133: a word is the instruction of the one row it matches; no word matches two rows; a word that matches none is
illegal, and the step that fetches it halts. -/
def Obligations.OneRowPerWord : Prop :=
  (∀ (w : Word) (i : Instr), decode32 w = some i → i.row ∈ opcodeTable32 ∧ i.row.matchesWord w = true) ∧
  (∀ (w : Word) (r q : OpcodeRow), r ∈ opcodeTable32 → q ∈ opcodeTable32 →
    r.matchesWord w = true → q.matchesWord w = true → r = q) ∧
  (∀ w : Word, decode32 w = none ↔ ∀ r ∈ opcodeTable32, r.matchesWord w = false) ∧
  (∀ (s : State) (w : Word), s.status = .running → s.dev.quit = false → s.pc.getLsbD 0 = false →
    s.pc.toNat + 2 ≤ s.cfg.memSize → (s.pc + 2#32).toNat + 2 ≤ s.cfg.memSize →
    w = ramHalf s (s.pc + 2#32).toNat ++ ramHalf s s.pc.toNat → w.extractLsb' 0 2 = 3#2 →
    (∀ r ∈ opcodeTable32, r.matchesWord w = false) →
    step s = .next { s with status := .halted .illegalInstruction w })

/-- R440: the illegal halfwords are exactly those of the rule's table, and each halts with the halfword. -/
def Obligations.IllegalHalfwords : Prop :=
  (∀ h : Half, h.extractLsb' 0 2 ≠ 3#2 →
    (expandHalf h = none ↔
      (h.extractLsb' 0 2 = 0#2 ∧ h.extractLsb' 13 3 = 0#3 ∧ h.extractLsb' 5 8 = 0#8) ∨
      (h.extractLsb' 0 2 = 0#2 ∧ h.extractLsb' 13 3 ∈ [1#3, 3#3, 5#3, 7#3]) ∨
      (h.extractLsb' 0 2 = 0#2 ∧ h.extractLsb' 13 3 = 4#3) ∨
      (h.extractLsb' 0 2 = 1#2 ∧ h.extractLsb' 13 3 = 3#3 ∧ h.getLsbD 12 = false ∧ h.extractLsb' 2 5 = 0#5) ∨
      (h.extractLsb' 0 2 = 1#2 ∧ h.extractLsb' 13 3 = 4#3 ∧ h.extractLsb' 10 2 ∈ [0#2, 1#2] ∧ h.getLsbD 12 = true) ∨
      (h.extractLsb' 0 2 = 1#2 ∧ h.extractLsb' 13 3 = 4#3 ∧ h.extractLsb' 10 2 = 3#2 ∧ h.getLsbD 12 = true) ∨
      (h.extractLsb' 0 2 = 2#2 ∧ h.extractLsb' 13 3 = 0#3 ∧ h.getLsbD 12 = true) ∨
      (h.extractLsb' 0 2 = 2#2 ∧ h.extractLsb' 13 3 ∈ [1#3, 3#3, 5#3, 7#3]) ∨
      (h.extractLsb' 0 2 = 2#2 ∧ h.extractLsb' 13 3 = 2#3 ∧ h.extractLsb' 7 5 = 0#5) ∨
      (h.extractLsb' 0 2 = 2#2 ∧ h.extractLsb' 13 3 = 4#3 ∧ h.getLsbD 12 = false ∧
        h.extractLsb' 7 5 = 0#5 ∧ h.extractLsb' 2 5 = 0#5))) ∧
  (∀ s : State, s.status = .running → s.dev.quit = false → s.pc.getLsbD 0 = false →
    s.pc.toNat + 2 ≤ s.cfg.memSize → (ramHalf s s.pc.toNat).extractLsb' 0 2 ≠ 3#2 →
    expandHalf (ramHalf s s.pc.toNat) = none →
    step s = .next { s with
      status := .halted .illegalInstruction ((ramHalf s s.pc.toNat).zeroExtend 32) })

/-- Words written out by hand from the encoding tables, and what they decode to (one of each family; two illegal ones). -/
def Obligations.DecodeWords : Prop :=
  decodeTableWord 32 0x00100E13 = some (.addi 28#5 0#5 1#12) ∧
  decodeTableWord 32 0x01DE0F33 = some (.add 30#5 28#5 29#5) ∧
  decodeTableWord 32 0x80000137 = some (.lui 2#5 0x80000#20) ∧
  decodeTableWord 32 0x008000EF = some (.jal 1#5 8#21) ∧
  decodeTableWord 32 0x002280E7 = some (.jalr 1#5 5#5 2#12) ∧
  decodeTableWord 32 0x00442483 = some (.lw 9#5 8#5 4#12) ∧
  decodeTableWord 32 0x00942223 = some (.sw 8#5 9#5 4#12) ∧
  decodeTableWord 32 0xC00022F3 = some (.csrrs 5#5 0xC00#12 0#5) ∧
  decodeTableWord 32 0x0FF0000F = some (.fence 0#4 15#4 15#4 0#5 0#5) ∧
  decodeTableWord 16 0x0020 = some (.cAddi4spn 0#3 8#10) ∧
  decodeTableWord 16 0x2021 = some (.cJal 8#12) ∧
  decodeTableWord 32 0x30200073 = none ∧
  decodeTableWord 16 0x0000 = none

/-! ### Integer computational instructions -/

/-- R200, R201, R205 to R213: layout and effect, for every register (x0 too), immediate and state. -/
def Obligations.ImmediateForms : Prop :=
  (LayoutU 0x37#7 .lui ∧ ∀ rd imm s, Completes (.lui rd imm) s rd (imm ++ 0#12) (s.pc + 4#32)) ∧
  (LayoutU 0x17#7 .auipc ∧ ∀ rd imm s, Completes (.auipc rd imm) s rd (s.pc + (imm ++ 0#12)) (s.pc + 4#32)) ∧
  (LayoutI 0#3 0x13#7 .addi ∧ ∀ rd rs1 imm s,
    Completes (.addi rd rs1 imm) s rd (readReg rs1 s + imm.signExtend 32) (s.pc + 4#32)) ∧
  (LayoutI 2#3 0x13#7 .slti ∧ ∀ rd rs1 imm s,
    Completes (.slti rd rs1 imm) s rd
      (if (readReg rs1 s).toInt < (imm.signExtend 32).toInt then 1#32 else 0#32) (s.pc + 4#32)) ∧
  (LayoutI 3#3 0x13#7 .sltiu ∧ ∀ rd rs1 imm s,
    Completes (.sltiu rd rs1 imm) s rd
      (if (readReg rs1 s).toNat < (imm.signExtend 32).toNat then 1#32 else 0#32) (s.pc + 4#32)) ∧
  (LayoutI 4#3 0x13#7 .xori ∧ ∀ rd rs1 imm s,
    Completes (.xori rd rs1 imm) s rd (readReg rs1 s ^^^ imm.signExtend 32) (s.pc + 4#32)) ∧
  (LayoutI 6#3 0x13#7 .ori ∧ ∀ rd rs1 imm s,
    Completes (.ori rd rs1 imm) s rd (readReg rs1 s ||| imm.signExtend 32) (s.pc + 4#32)) ∧
  (LayoutI 7#3 0x13#7 .andi ∧ ∀ rd rs1 imm s,
    Completes (.andi rd rs1 imm) s rd (readReg rs1 s &&& imm.signExtend 32) (s.pc + 4#32)) ∧
  (LayoutR 0#7 1#3 0x13#7 (fun rd rs1 shamt => .slli rd rs1 shamt) ∧ ∀ rd rs1 (shamt : BitVec 5) s,
    Completes (.slli rd rs1 shamt) s rd (readReg rs1 s <<< shamt.toNat) (s.pc + 4#32)) ∧
  (LayoutR 0#7 5#3 0x13#7 (fun rd rs1 shamt => .srli rd rs1 shamt) ∧ ∀ rd rs1 (shamt : BitVec 5) s,
    Completes (.srli rd rs1 shamt) s rd (readReg rs1 s >>> shamt.toNat) (s.pc + 4#32)) ∧
  (LayoutR 0x20#7 5#3 0x13#7 (fun rd rs1 shamt => .srai rd rs1 shamt) ∧ ∀ rd rs1 (shamt : BitVec 5) s,
    Completes (.srai rd rs1 shamt) s rd ((readReg rs1 s).sshiftRight shamt.toNat) (s.pc + 4#32))

/-- R215 to R224: layout and effect, for every register (x0 too) and state; a shift takes the low five bits. -/
def Obligations.RegisterForms : Prop :=
  (LayoutR 0#7 0#3 0x33#7 .add ∧ ∀ rd rs1 rs2 s,
    Completes (.add rd rs1 rs2) s rd (readReg rs1 s + readReg rs2 s) (s.pc + 4#32)) ∧
  (LayoutR 0x20#7 0#3 0x33#7 .sub ∧ ∀ rd rs1 rs2 s,
    Completes (.sub rd rs1 rs2) s rd (readReg rs1 s - readReg rs2 s) (s.pc + 4#32)) ∧
  (LayoutR 0#7 1#3 0x33#7 .sll ∧ ∀ rd rs1 rs2 s,
    Completes (.sll rd rs1 rs2) s rd (readReg rs1 s <<< ((readReg rs2 s).toNat % 32)) (s.pc + 4#32)) ∧
  (LayoutR 0#7 2#3 0x33#7 .slt ∧ ∀ rd rs1 rs2 s,
    Completes (.slt rd rs1 rs2) s rd
      (if (readReg rs1 s).toInt < (readReg rs2 s).toInt then 1#32 else 0#32) (s.pc + 4#32)) ∧
  (LayoutR 0#7 3#3 0x33#7 .sltu ∧ ∀ rd rs1 rs2 s,
    Completes (.sltu rd rs1 rs2) s rd
      (if (readReg rs1 s).toNat < (readReg rs2 s).toNat then 1#32 else 0#32) (s.pc + 4#32)) ∧
  (LayoutR 0#7 4#3 0x33#7 .xor ∧ ∀ rd rs1 rs2 s,
    Completes (.xor rd rs1 rs2) s rd (readReg rs1 s ^^^ readReg rs2 s) (s.pc + 4#32)) ∧
  (LayoutR 0#7 5#3 0x33#7 .srl ∧ ∀ rd rs1 rs2 s,
    Completes (.srl rd rs1 rs2) s rd (readReg rs1 s >>> ((readReg rs2 s).toNat % 32)) (s.pc + 4#32)) ∧
  (LayoutR 0x20#7 5#3 0x33#7 .sra ∧ ∀ rd rs1 rs2 s,
    Completes (.sra rd rs1 rs2) s rd ((readReg rs1 s).sshiftRight ((readReg rs2 s).toNat % 32)) (s.pc + 4#32)) ∧
  (LayoutR 0#7 6#3 0x33#7 .or ∧ ∀ rd rs1 rs2 s,
    Completes (.or rd rs1 rs2) s rd (readReg rs1 s ||| readReg rs2 s) (s.pc + 4#32)) ∧
  (LayoutR 0#7 7#3 0x33#7 .and ∧ ∀ rd rs1 rs2 s,
    Completes (.and rd rs1 rs2) s rd (readReg rs1 s &&& readReg rs2 s) (s.pc + 4#32))

/-- R300 to R307: layout and effect for every operand, the divisor 0 and the overflow among them; never a halt. -/
def Obligations.MultiplyDivide : Prop :=
  (LayoutR 1#7 0#3 0x33#7 .mul ∧ ∀ rd rs1 rs2 s,
    Completes (.mul rd rs1 rs2) s rd (readReg rs1 s * readReg rs2 s) (s.pc + 4#32)) ∧
  (LayoutR 1#7 1#3 0x33#7 .mulh ∧ ∀ rd rs1 rs2 s,
    Completes (.mulh rd rs1 rs2) s rd
      (BitVec.ofInt 32 ((readReg rs1 s).toInt * (readReg rs2 s).toInt / 2 ^ 32)) (s.pc + 4#32)) ∧
  (LayoutR 1#7 2#3 0x33#7 .mulhsu ∧ ∀ rd rs1 rs2 s,
    Completes (.mulhsu rd rs1 rs2) s rd
      (BitVec.ofInt 32 ((readReg rs1 s).toInt * (readReg rs2 s).toNat / 2 ^ 32)) (s.pc + 4#32)) ∧
  (LayoutR 1#7 3#3 0x33#7 .mulhu ∧ ∀ rd rs1 rs2 s,
    Completes (.mulhu rd rs1 rs2) s rd
      (BitVec.ofNat 32 ((readReg rs1 s).toNat * (readReg rs2 s).toNat / 2 ^ 32)) (s.pc + 4#32)) ∧
  (LayoutR 1#7 4#3 0x33#7 .div ∧ ∀ rd rs1 rs2 s,
    Completes (.div rd rs1 rs2) s rd
      (if readReg rs2 s = 0#32 then 0xFFFFFFFF#32
       else if readReg rs1 s = 0x80000000#32 ∧ readReg rs2 s = 0xFFFFFFFF#32 then 0x80000000#32
       else BitVec.ofInt 32 ((readReg rs1 s).toInt.tdiv (readReg rs2 s).toInt)) (s.pc + 4#32)) ∧
  (LayoutR 1#7 5#3 0x33#7 .divu ∧ ∀ rd rs1 rs2 s,
    Completes (.divu rd rs1 rs2) s rd
      (if readReg rs2 s = 0#32 then 0xFFFFFFFF#32
       else BitVec.ofNat 32 ((readReg rs1 s).toNat / (readReg rs2 s).toNat)) (s.pc + 4#32)) ∧
  (LayoutR 1#7 6#3 0x33#7 .rem ∧ ∀ rd rs1 rs2 s,
    Completes (.rem rd rs1 rs2) s rd
      (if readReg rs2 s = 0#32 then readReg rs1 s
       else if readReg rs1 s = 0x80000000#32 ∧ readReg rs2 s = 0xFFFFFFFF#32 then 0#32
       else BitVec.ofInt 32 ((readReg rs1 s).toInt -
         (readReg rs2 s).toInt * (readReg rs1 s).toInt.tdiv (readReg rs2 s).toInt)) (s.pc + 4#32)) ∧
  (LayoutR 1#7 7#3 0x33#7 .remu ∧ ∀ rd rs1 rs2 s,
    Completes (.remu rd rs1 rs2) s rd
      (if readReg rs2 s = 0#32 then readReg rs1 s
       else BitVec.ofNat 32 ((readReg rs1 s).toNat % (readReg rs2 s).toNat)) (s.pc + 4#32))

/-! ### Control transfer -/

/-- R250 to R257: layout, link and target for every operand; no branch writes a register; JALR's other minor codes are
illegal. -/
def Obligations.JumpsAndBranches : Prop :=
  (LayoutJ 0x6F#7 .jal ∧ ∀ rd off s,
    Completes (.jal rd off) s rd (s.pc + 4#32) (s.pc + off.signExtend 32)) ∧
  (LayoutI 0#3 0x67#7 .jalr ∧ (∀ (imm : BitVec 12) (rs1 rd : BitVec 5) (f3 : BitVec 3), f3 ≠ 0#3 →
      decodeEncoding (.word (imm ++ rs1 ++ f3 ++ rd ++ 0x67#7)) = none) ∧ ∀ rd rs1 imm s,
    Completes (.jalr rd rs1 imm) s rd (s.pc + 4#32) ((readReg rs1 s + imm.signExtend 32) &&& 0xFFFFFFFE#32)) ∧
  (LayoutB 0#3 0x63#7 .beq ∧ ∀ rs1 rs2 off s, Continues (.beq rs1 rs2 off) s
    (if readReg rs1 s = readReg rs2 s then s.pc + off.signExtend 32 else s.pc + 4#32)) ∧
  (LayoutB 1#3 0x63#7 .bne ∧ ∀ rs1 rs2 off s, Continues (.bne rs1 rs2 off) s
    (if readReg rs1 s = readReg rs2 s then s.pc + 4#32 else s.pc + off.signExtend 32)) ∧
  (LayoutB 4#3 0x63#7 .blt ∧ ∀ rs1 rs2 off s, Continues (.blt rs1 rs2 off) s
    (if (readReg rs1 s).toInt < (readReg rs2 s).toInt then s.pc + off.signExtend 32 else s.pc + 4#32)) ∧
  (LayoutB 5#3 0x63#7 .bge ∧ ∀ rs1 rs2 off s, Continues (.bge rs1 rs2 off) s
    (if (readReg rs1 s).toInt < (readReg rs2 s).toInt then s.pc + 4#32 else s.pc + off.signExtend 32)) ∧
  (LayoutB 6#3 0x63#7 .bltu ∧ ∀ rs1 rs2 off s, Continues (.bltu rs1 rs2 off) s
    (if (readReg rs1 s).toNat < (readReg rs2 s).toNat then s.pc + off.signExtend 32 else s.pc + 4#32)) ∧
  (LayoutB 7#3 0x63#7 .bgeu ∧ ∀ rs1 rs2 off s, Continues (.bgeu rs1 rs2 off) s
    (if (readReg rs1 s).toNat < (readReg rs2 s).toNat then s.pc + 4#32 else s.pc + off.signExtend 32))

/-! ### Loads and stores -/

/-- What a load of `n` bytes at `ea` does, in RAM, on a device, out of range: `val` is its value from the bytes of RAM,
`ext` from the device's answer. -/
def LoadsAt (i : Instr) (s : State) (rd : RegIdx) (n : Width) (ea nextPc : Word)
    (val : (Nat → Byte) → Word) (ext : Word → Word) : Prop :=
  (classify s.cfg ea (widthBytes n) = .ram →
    Completes i s rd (val (fun k => memByte s (ea.toNat + k))) nextPc) ∧
  (∀ d o, classify s.cfg ea (widthBytes n) = .dev d o →
    CompletesFrom i s (devRead d o n s).2 rd (ext (devRead d o n s).1) nextPc) ∧
  (classify s.cfg ea (widthBytes n) = .outOfRange → HaltsWith i s .outOfRangeLoad ea)

/-- R270 to R275: layout and effect of the five loads at `ea = x[rs1] + immI`, for every register and displacement. -/
def Obligations.Loads : Prop :=
  (LayoutI 0#3 0x03#7 .lb ∧ ∀ rd rs1 imm s,
    LoadsAt (.lb rd rs1 imm) s rd .byte (readReg rs1 s + imm.signExtend 32) (s.pc + 4#32)
      (fun b => (b 0).signExtend 32) (fun v => (v.setWidth 8).signExtend 32)) ∧
  (LayoutI 1#3 0x03#7 .lh ∧ ∀ rd rs1 imm s,
    LoadsAt (.lh rd rs1 imm) s rd .half (readReg rs1 s + imm.signExtend 32) (s.pc + 4#32)
      (fun b => (b 1 ++ b 0).signExtend 32) (fun v => (v.setWidth 16).signExtend 32)) ∧
  (LayoutI 2#3 0x03#7 .lw ∧ ∀ rd rs1 imm s,
    LoadsAt (.lw rd rs1 imm) s rd .word (readReg rs1 s + imm.signExtend 32) (s.pc + 4#32)
      (fun b => b 3 ++ b 2 ++ b 1 ++ b 0) (fun v => v)) ∧
  (LayoutI 4#3 0x03#7 .lbu ∧ ∀ rd rs1 imm s,
    LoadsAt (.lbu rd rs1 imm) s rd .byte (readReg rs1 s + imm.signExtend 32) (s.pc + 4#32)
      (fun b => (b 0).zeroExtend 32) (fun v => (v.setWidth 8).zeroExtend 32)) ∧
  (LayoutI 5#3 0x03#7 .lhu ∧ ∀ rd rs1 imm s,
    LoadsAt (.lhu rd rs1 imm) s rd .half (readReg rs1 s + imm.signExtend 32) (s.pc + 4#32)
      (fun b => (b 1 ++ b 0).zeroExtend 32) (fun v => (v.setWidth 16).zeroExtend 32))

/-- What a store of the bytes `bs`, the low bytes of `v`, at `ea` does, in RAM, on a device (no byte of RAM changes), out
of range. -/
def StoresAt (i : Instr) (s : State) (n : Width) (ea v nextPc : Word) (bs : List Byte) : Prop :=
  (classify s.cfg ea (widthBytes n) = .ram →
    ∃ u, StoresBytes s ea.toNat bs u ∧ CompletesFrom i s u 0#5 0#32 nextPc) ∧
  (∀ d o, classify s.cfg ea (widthBytes n) = .dev d o →
    ∃ u, u = resvSnoop ea.toNat (widthBytes n) (devWrite d o n v s) ∧ (∀ a, memByte u a = memByte s a) ∧
      CompletesFrom i s u 0#5 0#32 nextPc) ∧
  (classify s.cfg ea (widthBytes n) = .outOfRange → HaltsWith i s .outOfRangeStore ea)

/-- R276 to R278: layout and effect of the three stores at `ea = x[rs1] + immS`, and every byte they leave alone. -/
def Obligations.Stores : Prop :=
  (LayoutS 0#3 0x23#7 .sb ∧ ∀ rs1 rs2 imm s,
    StoresAt (.sb rs1 rs2 imm) s .byte (readReg rs1 s + imm.signExtend 32) (readReg rs2 s) (s.pc + 4#32)
      [(readReg rs2 s).extractLsb' 0 8]) ∧
  (LayoutS 1#3 0x23#7 .sh ∧ ∀ rs1 rs2 imm s,
    StoresAt (.sh rs1 rs2 imm) s .half (readReg rs1 s + imm.signExtend 32) (readReg rs2 s) (s.pc + 4#32)
      [(readReg rs2 s).extractLsb' 0 8, (readReg rs2 s).extractLsb' 8 8]) ∧
  (LayoutS 2#3 0x23#7 .sw ∧ ∀ rs1 rs2 imm s,
    StoresAt (.sw rs1 rs2 imm) s .word (readReg rs1 s + imm.signExtend 32) (readReg rs2 s) (s.pc + 4#32)
      [(readReg rs2 s).extractLsb' 0 8, (readReg rs2 s).extractLsb' 8 8,
       (readReg rs2 s).extractLsb' 16 8, (readReg rs2 s).extractLsb' 24 8])

/-- R84 on the meanings: after SW at an address in RAM, LBU at each of its four bytes gives that byte of the word, and LHU
at `+2` the upper half; after SB, LBU gives the byte. -/
def Obligations.StoreThenLoad : Prop :=
  ∀ (s t : State) (rs1 rs2 rd : RegIdx), rd ≠ 0#5 → (readReg rs1 s).toNat + 4 ≤ s.cfg.memSize →
    s.cfg.memSize ≤ 2 ^ 27 → (∀ k, k < 4 → deviceAt s.cfg (readReg rs1 s + BitVec.ofNat 32 k) = none) →
    exec (.sw rs1 rs2 0#12) s = .next t →
    (∀ k, k < 4 → ∃ u, exec (.lbu rd rs1 (BitVec.ofNat 12 k)) t = .next u ∧
      readReg rd u = ((readReg rs2 s).extractLsb' (8 * k) 8).zeroExtend 32) ∧
    (∃ u, exec (.lhu rd rs1 2#12) t = .next u ∧ readReg rd u = ((readReg rs2 s).extractLsb' 16 16).zeroExtend 32) ∧
    (∃ u v, exec (.sb rs1 rs2 0#12) s = .next u ∧ exec (.lbu rd rs1 0#12) u = .next v ∧
      readReg rd v = ((readReg rs2 s).extractLsb' 0 8).zeroExtend 32)

/-- R93: after a store of a word to an even address in RAM, the fetch of its two halfwords gives the word's halves, and a
fetch with the pc there gives the word, or its low half where that is compressed, with no FENCE.I between. -/
def Obligations.StoreThenFetch : Prop :=
  ∀ (s t : State) (rs1 rs2 : RegIdx), classify s.cfg (readReg rs1 s) 4 = .ram → s.cfg.memSize ≤ 2 ^ 27 →
    (readReg rs1 s).getLsbD 0 = false → exec (.sw rs1 rs2 0#12) s = .next t →
    fetchHalf t (readReg rs1 s) = .ok ((readReg rs2 s).extractLsb' 0 16) ∧
    fetchHalf t (readReg rs1 s + 2#32) = .ok ((readReg rs2 s).extractLsb' 16 16) ∧
    ((readReg rs2 s).extractLsb' 0 2 = 3#2 →
      fetch { t with pc := readReg rs1 s } = .ok (.word (readReg rs2 s))) ∧
    ((readReg rs2 s).extractLsb' 0 2 ≠ 3#2 →
      fetch { t with pc := readReg rs1 s } = .ok (.half ((readReg rs2 s).extractLsb' 0 16)))

/-! ### Atomics -/

/-- R335, R330: layout and effect of LR.W; the reservation moves to `ea`, the address as it was before `rd` is written;
with a source register field that is not 0 the word is illegal. -/
def Obligations.LoadReserved : Prop :=
  (∀ (aq rl : Bool) (rs1 rd : BitVec 5),
    decodeEncoding (.word (2#5 ++ BitVec.ofBool aq ++ BitVec.ofBool rl ++ 0#5 ++ rs1 ++ 2#3 ++ rd ++ 0x2F#7)) =
      some (.lrW rd rs1 aq rl)) ∧
  (∀ (aq rl : Bool) (rs2 rs1 rd : BitVec 5), rs2 ≠ 0#5 →
    decodeEncoding (.word (2#5 ++ BitVec.ofBool aq ++ BitVec.ofBool rl ++ rs2 ++ rs1 ++ 2#3 ++ rd ++ 0x2F#7)) = none) ∧
  ∀ rd rs1 aq rl s,
    (classify s.cfg (readReg rs1 s) 4 = .ram →
      CompletesFrom (.lrW rd rs1 aq rl) s { s with resvAddr := readReg rs1 s, resvValid := true } rd
        (memByte s ((readReg rs1 s).toNat + 3) ++ memByte s ((readReg rs1 s).toNat + 2) ++
          memByte s ((readReg rs1 s).toNat + 1) ++ memByte s (readReg rs1 s).toNat) (s.pc + 4#32)) ∧
    (∀ d o, classify s.cfg (readReg rs1 s) 4 = .dev d o →
      CompletesFrom (.lrW rd rs1 aq rl) s
        { (devRead d o .word s).2 with resvAddr := readReg rs1 s, resvValid := true } rd (devRead d o .word s).1
        (s.pc + 4#32)) ∧
    (classify s.cfg (readReg rs1 s) 4 = .outOfRange →
      HaltsWith (.lrW rd rs1 aq rl) s .outOfRangeLoad (readReg rs1 s))

/-- R336, R332: layout and effect of SC.W: it stores and gives 0 exactly with a valid reservation at the same address, else
accesses nothing and gives 1; the reservation is gone either way. -/
def Obligations.StoreConditional : Prop :=
  LayoutA 3#5 .scW ∧
  ∀ rd rs1 rs2 aq rl s,
    (s.resvValid = true ∧ s.resvAddr = readReg rs1 s →
      (classify s.cfg (readReg rs1 s) 4 = .ram → ∃ u v,
        StoresBytes s (readReg rs1 s).toNat
          [(readReg rs2 s).extractLsb' 0 8, (readReg rs2 s).extractLsb' 8 8,
           (readReg rs2 s).extractLsb' 16 8, (readReg rs2 s).extractLsb' 24 8] u ∧
        v = { u with resvValid := false } ∧ CompletesFrom (.scW rd rs1 rs2 aq rl) s v rd 0#32 (s.pc + 4#32)) ∧
      (∀ d o, classify s.cfg (readReg rs1 s) 4 = .dev d o →
        (∀ a, memByte (devWrite d o .word (readReg rs2 s) s) a = memByte s a) ∧
        CompletesFrom (.scW rd rs1 rs2 aq rl) s
          { devWrite d o .word (readReg rs2 s) s with resvValid := false } rd 0#32 (s.pc + 4#32)) ∧
      (classify s.cfg (readReg rs1 s) 4 = .outOfRange →
        HaltsWith (.scW rd rs1 rs2 aq rl) s .outOfRangeStore (readReg rs1 s))) ∧
    (s.resvValid = false ∨ s.resvAddr ≠ readReg rs1 s →
      CompletesFrom (.scW rd rs1 rs2 aq rl) s { s with resvValid := false } rd 1#32 (s.pc + 4#32))

/-- What a read-modify-write with the operator `op` does at `x[rs1]`, in RAM, on a device, out of range. -/
def ModifiesAt (mk : RegIdx → RegIdx → RegIdx → Bool → Bool → Instr) (op : Word → Word → Word) : Prop :=
  ∀ rd rs1 rs2 aq rl s,
    (classify s.cfg (readReg rs1 s) 4 = .ram →
      ∃ (old new : Word) (u : State),
        old = memByte s ((readReg rs1 s).toNat + 3) ++ memByte s ((readReg rs1 s).toNat + 2) ++
          memByte s ((readReg rs1 s).toNat + 1) ++ memByte s (readReg rs1 s).toNat ∧
        new = op old (readReg rs2 s) ∧
        StoresBytes s (readReg rs1 s).toNat
          [new.extractLsb' 0 8, new.extractLsb' 8 8, new.extractLsb' 16 8, new.extractLsb' 24 8] u ∧
        CompletesFrom (mk rd rs1 rs2 aq rl) s u rd old (s.pc + 4#32)) ∧
    (∀ d o, classify s.cfg (readReg rs1 s) 4 = .dev d o →
      ∃ u, u = resvSnoop (readReg rs1 s).toNat 4
          (devWrite d o .word (op (devRead d o .word s).1 (readReg rs2 s)) (devRead d o .word s).2) ∧
        (∀ a, memByte u a = memByte s a) ∧
        CompletesFrom (mk rd rs1 rs2 aq rl) s u rd (devRead d o .word s).1 (s.pc + 4#32)) ∧
    (classify s.cfg (readReg rs1 s) 4 = .outOfRange →
      HaltsWith (mk rd rs1 rs2 aq rl) s .outOfRangeLoad (readReg rs1 s))

/-- R337 to R345: layout and effect of the nine AMOs, with their operators. -/
def Obligations.AtomicOperations : Prop :=
  (LayoutA 1#5 .amoswapW ∧ ModifiesAt .amoswapW (fun _ b => b)) ∧
  (LayoutA 0#5 .amoaddW ∧ ModifiesAt .amoaddW (fun old b => old + b)) ∧
  (LayoutA 4#5 .amoxorW ∧ ModifiesAt .amoxorW (fun old b => old ^^^ b)) ∧
  (LayoutA 12#5 .amoandW ∧ ModifiesAt .amoandW (fun old b => old &&& b)) ∧
  (LayoutA 8#5 .amoorW ∧ ModifiesAt .amoorW (fun old b => old ||| b)) ∧
  (LayoutA 16#5 .amominW ∧ ModifiesAt .amominW (fun old b => if old.toInt < b.toInt then old else b)) ∧
  (LayoutA 20#5 .amomaxW ∧ ModifiesAt .amomaxW (fun old b => if b.toInt < old.toInt then old else b)) ∧
  (LayoutA 24#5 .amominuW ∧ ModifiesAt .amominuW (fun old b => if old.toNat < b.toNat then old else b)) ∧
  (LayoutA 28#5 .amomaxuW ∧ ModifiesAt .amomaxuW (fun old b => if b.toNat < old.toNat then old else b))

/-- R43's invariant, over every instruction: a reservation valid afterwards was made by this LR.W, or stood before and no
byte of its four changed in RAM; only LR.W makes one (R330). -/
def Obligations.ReservationLifetime : Prop :=
  ∀ (i : Instr) (s t : State), exec i s = .next t → t.resvValid = true →
    kind i = .lr ∨ (s.resvValid = true ∧ t.resvAddr = s.resvAddr ∧
      ∀ k, k < 4 → memByte t (s.resvAddr.toNat + k) = memByte s (s.resvAddr.toNat + k))

/-- R333: an SC.W to the address of a standing reservation succeeds and stores, after any instruction that is no store, no
atomic, and no environment call; and after a store of a byte into the reserved word it fails and leaves RAM alone. -/
def Obligations.ReservedPair : Prop :=
  ∀ (s t : State) (rd rs1 rs2 : RegIdx) (aq rl : Bool), s.resvValid = true → s.resvAddr = readReg rs1 t →
    classify s.cfg s.resvAddr 4 = .ram →
    (∀ i, kind i ∉ [.store, .lr, .sc, .amo, .ecall] → exec i s = .next t →
      ∃ u, exec (.scW rd rs1 rs2 aq rl) t = .next u ∧ (rd ≠ 0#5 → readReg rd u = 0#32) ∧
        ∀ k, k < 4 → memByte u (s.resvAddr.toNat + k) = (readReg rs2 t).extractLsb' (8 * k) 8) ∧
    (∀ (base src : RegIdx) (imm : BitVec 12) (k : Nat), k < 4 →
      (readReg base s + imm.signExtend 32).toNat = s.resvAddr.toNat + k →
      classify s.cfg (readReg base s + imm.signExtend 32) 1 = .ram → exec (.sb base src imm) s = .next t →
      ∃ u, exec (.scW rd rs1 rs2 aq rl) t = .next u ∧ (rd ≠ 0#5 → readReg rd u = 1#32) ∧
        ∀ a, memByte u a = memByte t a)

/-! ### Fences, environment break, CSR instructions -/

/-- R370, R371: FENCE and FENCE.I, whatever their fields, only advance the pc and retire. -/
def Obligations.Fences : Prop :=
  ((∀ (fm pred succ : BitVec 4) (rs1 rd : BitVec 5),
      decodeEncoding (.word (fm ++ pred ++ succ ++ rs1 ++ 0#3 ++ rd ++ 0x0F#7)) = some (.fence fm pred succ rs1 rd)) ∧
    ∀ fm pred succ rs1 rd s, Continues (.fence fm pred succ rs1 rd) s (s.pc + 4#32)) ∧
  ((∀ (imm : BitVec 12) (rs1 rd : BitVec 5),
      decodeEncoding (.word (imm ++ rs1 ++ 1#3 ++ rd ++ 0x0F#7)) = some (.fenceI imm rs1 rd)) ∧
    ∀ imm rs1 rd s, Continues (.fenceI imm rs1 rd) s (s.pc + 4#32))

/-- R373, R434: EBREAK and C.EBREAK halt with Breakpoint at the pc, always, and change nothing else. -/
def Obligations.Breakpoints : Prop :=
  (∀ w : Word, decodeEncoding (.word w) = some .ebreak ↔ w = 0x00100073#32) ∧
  (∀ h : Half, decodeEncoding (.half h) = some .cEbreak ↔ h = 0x9002#16) ∧
  Instr.expand .cEbreak = some .ebreak ∧
  ∀ s : State, HaltsWith .ebreak s .breakpoint s.pc ∧ HaltsWith .cEbreak s .breakpoint s.pc

/-- What a CSR instruction with the source value `src` and the source field `field` does at an index of plain storage,
where `new` gives the value written from the old one: `rd` gets the old value. -/
def CsrAccess (mk : RegIdx → CsrIdx → BitVec 5 → Instr) (src : BitVec 5 → State → Word) (always : Bool)
    (new : Word → Word → Word) : Prop :=
  ∀ rd c field s, c ∉ counterCsrs →
    ∃ u, StoresCsr s c (if field = 0#5 ∧ always = false then sparseGet s.csrmem c.toNat
        else new (sparseGet s.csrmem c.toNat) (src field s)) u ∧
      CompletesFrom (mk rd c field) s u rd (sparseGet s.csrmem c.toNat) (s.pc + 4#32)

/-- A CSR instruction at a counter index: `rd` gets the index's value and the write is ignored. -/
def CounterAccess (mk : RegIdx → CsrIdx → BitVec 5 → Instr) : Prop :=
  ∀ rd x s,
    (∀ c ∈ [0xC00#12, 0xC02#12, 0xB02#12],
      Completes (mk rd c x) s rd (s.instret.extractLsb' 0 32) (s.pc + 4#32)) ∧
    (∀ c ∈ [0xC80#12, 0xC82#12, 0xB82#12],
      Completes (mk rd c x) s rd (s.instret.extractLsb' 32 32) (s.pc + 4#32)) ∧
    OnlyDraws s (drawClock s) ∧
    CompletesFrom (mk rd 0xC01#12 x) s (drawClock s) rd ((timerValue s).extractLsb' 0 32) (s.pc + 4#32) ∧
    CompletesFrom (mk rd 0xC81#12 x) s (drawClock s) rd ((timerValue s).extractLsb' 32 32) (s.pc + 4#32)

/-- R40, R42, R374, R376 to R381: layout; at an index of plain storage the old value to `rd`, the gated write, every other
index left alone; at a counter index its half of the counter (as it is before this instruction retires) or of the timer
to `rd`, and the write ignored. -/
def Obligations.CsrInstructions : Prop :=
  (LayoutCsr 1#3 .csrrw ∧ CounterAccess .csrrw ∧
    CsrAccess .csrrw (fun r s => readReg r s) true (fun _ src => src)) ∧
  (LayoutCsr 2#3 .csrrs ∧ CounterAccess .csrrs ∧
    CsrAccess .csrrs (fun r s => readReg r s) false (fun old src => old ||| src)) ∧
  (LayoutCsr 3#3 .csrrc ∧ CounterAccess .csrrc ∧
    CsrAccess .csrrc (fun r s => readReg r s) false (fun old src => old &&& ~~~src)) ∧
  (LayoutCsr 5#3 .csrrwi ∧ CounterAccess .csrrwi ∧
    CsrAccess .csrrwi (fun z _ => z.zeroExtend 32) true (fun _ src => src)) ∧
  (LayoutCsr 6#3 .csrrsi ∧ CounterAccess .csrrsi ∧
    CsrAccess .csrrsi (fun z _ => z.zeroExtend 32) false (fun old src => old ||| src)) ∧
  (LayoutCsr 7#3 .csrrci ∧ CounterAccess .csrrci ∧
    CsrAccess .csrrci (fun z _ => z.zeroExtend 32) false (fun old src => old &&& ~~~src))

/-! ### The environment call -/

/-- R502: write. -/
def Obligations.EnvironmentWrite : Prop :=
  ∀ s : State, readReg 17#5 s = 64#32 →
    ((readReg 10#5 s = 1#32 ∨ readReg 10#5 s = 2#32) →
      (readReg 11#5 s).toNat + (readReg 12#5 s).toNat ≤ s.cfg.memSize →
      CompletesFrom .ecall s
        { s with env := { s.env with out := s.env.out ++
            (List.range (readReg 12#5 s).toNat).map fun k => memByte s ((readReg 11#5 s).toNat + k) } }
        10#5 (readReg 12#5 s) (s.pc + 4#32)) ∧
    (readReg 10#5 s ≠ 1#32 → readReg 10#5 s ≠ 2#32 → Completes .ecall s 10#5 0xFFFFFFFF#32 (s.pc + 4#32)) ∧
    (s.cfg.memSize < (readReg 11#5 s).toNat + (readReg 12#5 s).toNat →
      Completes .ecall s 10#5 0xFFFFFFFF#32 (s.pc + 4#32))

/-- R504: read. `hostReadBytes` is the host's answer, an oracle, `drawRead` its consumption (log 5); no byte of RAM outside
the bytes read changes. -/
def Obligations.EnvironmentRead : Prop :=
  ∀ s : State, readReg 17#5 s = 63#32 →
    (readReg 10#5 s = 0#32 → (readReg 11#5 s).toNat + (readReg 12#5 s).toNat ≤ s.cfg.memSize →
      ∃ bytes u, bytes = hostReadBytes (readReg 12#5 s).toNat s ∧ bytes.length ≤ (readReg 12#5 s).toNat ∧
        OnlyDraws s (drawRead s) ∧ StoresBytes (drawRead s) (readReg 11#5 s).toNat bytes u ∧
        CompletesFrom .ecall s u 10#5 (BitVec.ofNat 32 bytes.length) (s.pc + 4#32) ∧
        ∃ t, exec .ecall s = .next t ∧
          ∀ b, b < (readReg 11#5 s).toNat ∨ (readReg 11#5 s).toNat + bytes.length ≤ b →
            memByte t b = memByte s b) ∧
    (readReg 10#5 s ≠ 0#32 → Completes .ecall s 10#5 0xFFFFFFFF#32 (s.pc + 4#32)) ∧
    (s.cfg.memSize < (readReg 11#5 s).toNat + (readReg 12#5 s).toNat →
      Completes .ecall s 10#5 0xFFFFFFFF#32 (s.pc + 4#32))

/-- R503: exit; R506: brk; R507: mmap (`hostMmapBase` is the host's answer, an oracle, `drawMmap` its consumption, log 6; no
byte of RAM changes); R509: any other selector. -/
def Obligations.EnvironmentOther : Prop :=
  (∀ s : State, readReg 17#5 s = 93#32 → exec .ecall s = .next { s with status := .exited (readReg 10#5 s) } ∧
    ∀ n, exitStatusAllowed (.exited (readReg 10#5 s)) n ↔ n = (readReg 10#5 s).toNat % 256) ∧
  (∀ s : State, readReg 17#5 s = 214#32 → readReg 10#5 s = 0#32 →
    Completes .ecall s 10#5 s.env.brk (s.pc + 4#32)) ∧
  (∀ s : State, readReg 17#5 s = 214#32 → readReg 10#5 s ≠ 0#32 →
    CompletesFrom .ecall s { s with env := { s.env with brk := readReg 10#5 s } } 10#5 (readReg 10#5 s)
      (s.pc + 4#32)) ∧
  (∀ s : State, readReg 17#5 s = 222#32 → ∃ r, r = hostMmapBase (readReg 11#5 s) s ∧
    OnlyDraws s (drawMmap (readReg 11#5 s) r s) ∧
    (∃ t, exec .ecall s = .next t ∧ ∀ a, memByte t a = memByte s a) ∧
    (∀ b, r = some b → b.toNat + (readReg 11#5 s).toNat ≤ s.cfg.memSize ∧
      CompletesFrom .ecall s (drawMmap (readReg 11#5 s) r s) 10#5 b (s.pc + 4#32)) ∧
    (r = none → CompletesFrom .ecall s (drawMmap (readReg 11#5 s) r s) 10#5 0xFFFFFFFF#32 (s.pc + 4#32))) ∧
  (∀ s : State, readReg 17#5 s ∉ [93#32, 64#32, 63#32, 214#32, 222#32, 113#32] →
    Completes .ecall s 10#5 0xFFFFFFDA#32 (s.pc + 4#32))

/-- The `n` low bytes of a number, little-endian. -/
def littleEndian (n v : Nat) : List Byte := (List.range n).map fun k => BitVec.ofNat 8 (v / 256 ^ k)

/-- R508: clock-get-time writes the timer's seconds and nanoseconds in the layout of the configuration where the target
lies in RAM, nothing where it does not, and returns 0. `drawClock` is the consumption of the timer's draw (log 4); no byte
of RAM outside the timespec changes. -/
def Obligations.EnvironmentClock : Prop :=
  ∀ s : State, readReg 17#5 s = 113#32 →
    ∃ bytes,
      (s.cfg.timespec = .ts32 → bytes =
        littleEndian 4 ((timerValue s).toNat / 1000000) ++
        littleEndian 4 ((timerValue s).toNat % 1000000 * 1000)) ∧
      (s.cfg.timespec = .ts64 → bytes =
        littleEndian 8 ((timerValue s).toNat / 1000000) ++
        littleEndian 4 ((timerValue s).toNat % 1000000 * 1000) ++ littleEndian 4 0) ∧
      OnlyDraws s (drawClock s) ∧
      (∃ t, exec .ecall s = .next t ∧
        ∀ b, b < (readReg 11#5 s).toNat ∨ (readReg 11#5 s).toNat + bytes.length ≤ b ∨
          s.cfg.memSize < (readReg 11#5 s).toNat + bytes.length → memByte t b = memByte s b) ∧
      ((readReg 11#5 s).toNat + bytes.length ≤ s.cfg.memSize →
        ∃ u, StoresBytes (drawClock s) (readReg 11#5 s).toNat bytes u ∧
          CompletesFrom .ecall s u 10#5 0#32 (s.pc + 4#32)) ∧
      (s.cfg.memSize < (readReg 11#5 s).toNat + bytes.length →
        CompletesFrom .ecall s (drawClock s) 10#5 0#32 (s.pc + 4#32))

/-! ### Compressed instructions -/

/-- R411, R414, R415, R417 to R419, R433, R436: layout, the illegal words beside it, expansion and effect. -/
def Obligations.CompressedAdds : Prop :=
  ((∀ (u4 : BitVec 2) (u6 : BitVec 4) (u2 u3 : BitVec 1) (rd : BitVec 3), u6 ++ u4 ++ u3 ++ u2 ++ 0#2 ≠ 0#10 →
      decodeEncoding (.half (0#3 ++ u4 ++ u6 ++ u2 ++ u3 ++ rd ++ 0#2)) =
        some (.cAddi4spn rd (u6 ++ u4 ++ u3 ++ u2 ++ 0#2))) ∧
    (∀ rd : BitVec 3, decodeEncoding (.half (0#3 ++ 0#8 ++ rd ++ 0#2)) = none) ∧
    ∀ rd nz s, (Instr.cAddi4spn rd nz).expand = some (.addi (1#2 ++ rd) 2#5 (nz.zeroExtend 12)) ∧
      Completes (.cAddi4spn rd nz) s (1#2 ++ rd) (readReg 2#5 s + nz.zeroExtend 32) (s.pc + 2#32)) ∧
  ((∀ (b : BitVec 1) (lo : BitVec 5),
      decodeEncoding (.half (0#3 ++ b ++ 0#5 ++ lo ++ 1#2)) = some (.cNop (b ++ lo))) ∧
    ∀ imm s, (Instr.cNop imm).expand = some (.addi 0#5 0#5 (imm.signExtend 12)) ∧
      Continues (.cNop imm) s (s.pc + 2#32)) ∧
  ((∀ (b : BitVec 1) (rd lo : BitVec 5), rd ≠ 0#5 →
      decodeEncoding (.half (0#3 ++ b ++ rd ++ lo ++ 1#2)) = some (.cAddi rd (b ++ lo))) ∧
    ∀ rd imm s, (Instr.cAddi rd imm).expand = some (.addi rd rd (imm.signExtend 12)) ∧
      Completes (.cAddi rd imm) s rd (readReg rd s + imm.signExtend 32) (s.pc + 2#32)) ∧
  ((∀ (b : BitVec 1) (rd lo : BitVec 5),
      decodeEncoding (.half (2#3 ++ b ++ rd ++ lo ++ 1#2)) = some (.cLi rd (b ++ lo))) ∧
    ∀ rd imm s, (Instr.cLi rd imm).expand = some (.addi rd 0#5 (imm.signExtend 12)) ∧
      Completes (.cLi rd imm) s rd (imm.signExtend 32) (s.pc + 2#32)) ∧
  ((∀ (b9 b4 b6 : BitVec 1) (b7 : BitVec 2) (b5 : BitVec 1), b9 ++ b7 ++ b6 ++ b5 ++ b4 ++ 0#4 ≠ 0#10 →
      decodeEncoding (.half (3#3 ++ b9 ++ 2#5 ++ b4 ++ b6 ++ b7 ++ b5 ++ 1#2)) =
        some (.cAddi16sp (b9 ++ b7 ++ b6 ++ b5 ++ b4 ++ 0#4))) ∧
    decodeEncoding (.half (3#3 ++ 0#1 ++ 2#5 ++ 0#5 ++ 1#2)) = none ∧
    ∀ nz s, (Instr.cAddi16sp nz).expand = some (.addi 2#5 2#5 (nz.signExtend 12)) ∧
      Completes (.cAddi16sp nz) s 2#5 (readReg 2#5 s + nz.signExtend 32) (s.pc + 2#32)) ∧
  ((∀ (b : BitVec 1) (rd lo : BitVec 5), rd ≠ 2#5 → b ++ lo ≠ 0#6 →
      decodeEncoding (.half (3#3 ++ b ++ rd ++ lo ++ 1#2)) = some (.cLui rd (b ++ lo))) ∧
    (∀ rd : BitVec 5, decodeEncoding (.half (3#3 ++ 0#1 ++ rd ++ 0#5 ++ 1#2)) = none) ∧
    ∀ rd imm s, (Instr.cLui rd imm).expand = some (.lui rd (imm.signExtend 20)) ∧
      Completes (.cLui rd imm) s rd (imm.signExtend 20 ++ 0#12) (s.pc + 2#32)) ∧
  ((∀ rd rs2 : BitVec 5, rs2 ≠ 0#5 →
      decodeEncoding (.half (4#3 ++ 0#1 ++ rd ++ rs2 ++ 2#2)) = some (.cMv rd rs2)) ∧
    ∀ rd rs2 s, (Instr.cMv rd rs2).expand = some (.add rd 0#5 rs2) ∧
      Completes (.cMv rd rs2) s rd (readReg rs2 s) (s.pc + 2#32)) ∧
  ((∀ rd rs2 : BitVec 5, rs2 ≠ 0#5 →
      decodeEncoding (.half (4#3 ++ 1#1 ++ rd ++ rs2 ++ 2#2)) = some (.cAdd rd rs2)) ∧
    ∀ rd rs2 s, (Instr.cAdd rd rs2).expand = some (.add rd rd rs2) ∧
      Completes (.cAdd rd rs2) s rd (readReg rd s + readReg rs2 s) (s.pc + 2#32))

/-- R420 to R426, R430: layout, the illegal words beside it, expansion and effect. -/
def Obligations.CompressedLogic : Prop :=
  ((∀ (rd : BitVec 3) (sh : BitVec 5),
      decodeEncoding (.half (4#3 ++ 0#1 ++ 0#2 ++ rd ++ sh ++ 1#2)) = some (.cSrli rd sh)) ∧
    (∀ (rd : BitVec 3) (lo : BitVec 5), decodeEncoding (.half (4#3 ++ 1#1 ++ 0#2 ++ rd ++ lo ++ 1#2)) = none) ∧
    ∀ rd (sh : BitVec 5) s, (Instr.cSrli rd sh).expand = some (.srli (1#2 ++ rd) (1#2 ++ rd) sh) ∧
      Completes (.cSrli rd sh) s (1#2 ++ rd) (readReg (1#2 ++ rd) s >>> sh.toNat) (s.pc + 2#32)) ∧
  ((∀ (rd : BitVec 3) (sh : BitVec 5),
      decodeEncoding (.half (4#3 ++ 0#1 ++ 1#2 ++ rd ++ sh ++ 1#2)) = some (.cSrai rd sh)) ∧
    (∀ (rd : BitVec 3) (lo : BitVec 5), decodeEncoding (.half (4#3 ++ 1#1 ++ 1#2 ++ rd ++ lo ++ 1#2)) = none) ∧
    ∀ rd (sh : BitVec 5) s, (Instr.cSrai rd sh).expand = some (.srai (1#2 ++ rd) (1#2 ++ rd) sh) ∧
      Completes (.cSrai rd sh) s (1#2 ++ rd) ((readReg (1#2 ++ rd) s).sshiftRight sh.toNat) (s.pc + 2#32)) ∧
  ((∀ (b : BitVec 1) (rd : BitVec 3) (lo : BitVec 5),
      decodeEncoding (.half (4#3 ++ b ++ 2#2 ++ rd ++ lo ++ 1#2)) = some (.cAndi rd (b ++ lo))) ∧
    ∀ rd imm s, (Instr.cAndi rd imm).expand = some (.andi (1#2 ++ rd) (1#2 ++ rd) (imm.signExtend 12)) ∧
      Completes (.cAndi rd imm) s (1#2 ++ rd) (readReg (1#2 ++ rd) s &&& imm.signExtend 32) (s.pc + 2#32)) ∧
  ((∀ rd rs2 : BitVec 3,
      decodeEncoding (.half (4#3 ++ 3#3 ++ rd ++ 0#2 ++ rs2 ++ 1#2)) = some (.cSub rd rs2)) ∧
    ∀ rd rs2 s, (Instr.cSub rd rs2).expand = some (.sub (1#2 ++ rd) (1#2 ++ rd) (1#2 ++ rs2)) ∧
      Completes (.cSub rd rs2) s (1#2 ++ rd) (readReg (1#2 ++ rd) s - readReg (1#2 ++ rs2) s) (s.pc + 2#32)) ∧
  ((∀ rd rs2 : BitVec 3,
      decodeEncoding (.half (4#3 ++ 3#3 ++ rd ++ 1#2 ++ rs2 ++ 1#2)) = some (.cXor rd rs2)) ∧
    ∀ rd rs2 s, (Instr.cXor rd rs2).expand = some (.xor (1#2 ++ rd) (1#2 ++ rd) (1#2 ++ rs2)) ∧
      Completes (.cXor rd rs2) s (1#2 ++ rd) (readReg (1#2 ++ rd) s ^^^ readReg (1#2 ++ rs2) s) (s.pc + 2#32)) ∧
  ((∀ rd rs2 : BitVec 3,
      decodeEncoding (.half (4#3 ++ 3#3 ++ rd ++ 2#2 ++ rs2 ++ 1#2)) = some (.cOr rd rs2)) ∧
    ∀ rd rs2 s, (Instr.cOr rd rs2).expand = some (.or (1#2 ++ rd) (1#2 ++ rd) (1#2 ++ rs2)) ∧
      Completes (.cOr rd rs2) s (1#2 ++ rd) (readReg (1#2 ++ rd) s ||| readReg (1#2 ++ rs2) s) (s.pc + 2#32)) ∧
  ((∀ rd rs2 : BitVec 3,
      decodeEncoding (.half (4#3 ++ 3#3 ++ rd ++ 3#2 ++ rs2 ++ 1#2)) = some (.cAnd rd rs2)) ∧
    (∀ (rd : BitVec 3) (lo : BitVec 5), decodeEncoding (.half (4#3 ++ 1#1 ++ 3#2 ++ rd ++ lo ++ 1#2)) = none) ∧
    ∀ rd rs2 s, (Instr.cAnd rd rs2).expand = some (.and (1#2 ++ rd) (1#2 ++ rd) (1#2 ++ rs2)) ∧
      Completes (.cAnd rd rs2) s (1#2 ++ rd) (readReg (1#2 ++ rd) s &&& readReg (1#2 ++ rs2) s) (s.pc + 2#32)) ∧
  ((∀ rd sh : BitVec 5,
      decodeEncoding (.half (0#3 ++ 0#1 ++ rd ++ sh ++ 2#2)) = some (.cSlli rd sh)) ∧
    (∀ rd lo : BitVec 5, decodeEncoding (.half (0#3 ++ 1#1 ++ rd ++ lo ++ 2#2)) = none) ∧
    ∀ rd (sh : BitVec 5) s, (Instr.cSlli rd sh).expand = some (.slli rd rd sh) ∧
      Completes (.cSlli rd sh) s rd (readReg rd s <<< sh.toNat) (s.pc + 2#32))

/-- The CJ layout of R137 and R138. -/
def LayoutCJ (f3 : BitVec 3) (mk : BitVec 12 → Instr) : Prop :=
  ∀ (b11 b4 : BitVec 1) (b8 : BitVec 2) (b10 b6 b7 : BitVec 1) (b1 : BitVec 3) (b5 : BitVec 1),
    decodeEncoding (.half (f3 ++ b11 ++ b4 ++ b8 ++ b10 ++ b6 ++ b7 ++ b1 ++ b5 ++ 1#2)) =
      some (mk (b11 ++ b10 ++ b8 ++ b7 ++ b6 ++ b5 ++ b4 ++ b1 ++ 0#1))

/-- The CB layout of R137 and R138 for the branches. -/
def LayoutCB (f3 : BitVec 3) (mk : CReg → BitVec 9 → Instr) : Prop :=
  ∀ (b8 : BitVec 1) (b3 : BitVec 2) (rs1 : BitVec 3) (b6 b1 : BitVec 2) (b5 : BitVec 1),
    decodeEncoding (.half (f3 ++ b8 ++ b3 ++ rs1 ++ b6 ++ b1 ++ b5 ++ 1#2)) =
      some (mk rs1 (b8 ++ b6 ++ b5 ++ b3 ++ b1 ++ 0#1))

/-- R416, R427 to R429, R432, R435: layout, the illegal word, expansion, link `pc + 2` and target. -/
def Obligations.CompressedControl : Prop :=
  (LayoutCJ 1#3 .cJal ∧ ∀ off s, (Instr.cJal off).expand = some (.jal 1#5 (off.signExtend 21)) ∧
    Completes (.cJal off) s 1#5 (s.pc + 2#32) (s.pc + off.signExtend 32)) ∧
  (LayoutCJ 5#3 .cJ ∧ ∀ off s, (Instr.cJ off).expand = some (.jal 0#5 (off.signExtend 21)) ∧
    Continues (.cJ off) s (s.pc + off.signExtend 32)) ∧
  (LayoutCB 6#3 .cBeqz ∧ ∀ rs1 off s,
    (Instr.cBeqz rs1 off).expand = some (.beq (1#2 ++ rs1) 0#5 (off.signExtend 13)) ∧
    Continues (.cBeqz rs1 off) s
      (if readReg (1#2 ++ rs1) s = 0#32 then s.pc + off.signExtend 32 else s.pc + 2#32)) ∧
  (LayoutCB 7#3 .cBnez ∧ ∀ rs1 off s,
    (Instr.cBnez rs1 off).expand = some (.bne (1#2 ++ rs1) 0#5 (off.signExtend 13)) ∧
    Continues (.cBnez rs1 off) s
      (if readReg (1#2 ++ rs1) s = 0#32 then s.pc + 2#32 else s.pc + off.signExtend 32)) ∧
  ((∀ rs1 : BitVec 5, rs1 ≠ 0#5 →
      decodeEncoding (.half (4#3 ++ 0#1 ++ rs1 ++ 0#5 ++ 2#2)) = some (.cJr rs1)) ∧
    decodeEncoding (.half (4#3 ++ 0#1 ++ 0#5 ++ 0#5 ++ 2#2)) = none ∧
    ∀ rs1 s, (Instr.cJr rs1).expand = some (.jalr 0#5 rs1 0#12) ∧
      Continues (.cJr rs1) s (readReg rs1 s &&& 0xFFFFFFFE#32)) ∧
  ((∀ rs1 : BitVec 5, rs1 ≠ 0#5 →
      decodeEncoding (.half (4#3 ++ 1#1 ++ rs1 ++ 0#5 ++ 2#2)) = some (.cJalr rs1)) ∧
    ∀ rs1 s, (Instr.cJalr rs1).expand = some (.jalr 1#5 rs1 0#12) ∧
      Completes (.cJalr rs1) s 1#5 (s.pc + 2#32) (readReg rs1 s &&& 0xFFFFFFFE#32))

/-- R412, R413, R431, R437: layout, the illegal words beside it, expansion and effect. -/
def Obligations.CompressedMemory : Prop :=
  ((∀ (u3 rs1 : BitVec 3) (u2 u6 : BitVec 1) (rd : BitVec 3),
      decodeEncoding (.half (2#3 ++ u3 ++ rs1 ++ u2 ++ u6 ++ rd ++ 0#2)) =
        some (.cLw rd rs1 (u6 ++ u3 ++ u2 ++ 0#2))) ∧
    ∀ rd rs1 u s, (Instr.cLw rd rs1 u).expand = some (.lw (1#2 ++ rd) (1#2 ++ rs1) (u.zeroExtend 12)) ∧
      LoadsAt (.cLw rd rs1 u) s (1#2 ++ rd) .word (readReg (1#2 ++ rs1) s + u.zeroExtend 32) (s.pc + 2#32)
        (fun b => b 3 ++ b 2 ++ b 1 ++ b 0) (fun v => v)) ∧
  ((∀ (u3 rs1 : BitVec 3) (u2 u6 : BitVec 1) (rs2 : BitVec 3),
      decodeEncoding (.half (6#3 ++ u3 ++ rs1 ++ u2 ++ u6 ++ rs2 ++ 0#2)) =
        some (.cSw rs1 rs2 (u6 ++ u3 ++ u2 ++ 0#2))) ∧
    ∀ rs1 rs2 u s, (Instr.cSw rs1 rs2 u).expand = some (.sw (1#2 ++ rs1) (1#2 ++ rs2) (u.zeroExtend 12)) ∧
      StoresAt (.cSw rs1 rs2 u) s .word (readReg (1#2 ++ rs1) s + u.zeroExtend 32) (readReg (1#2 ++ rs2) s)
        (s.pc + 2#32)
        [(readReg (1#2 ++ rs2) s).extractLsb' 0 8, (readReg (1#2 ++ rs2) s).extractLsb' 8 8,
         (readReg (1#2 ++ rs2) s).extractLsb' 16 8, (readReg (1#2 ++ rs2) s).extractLsb' 24 8]) ∧
  ((∀ (u5 : BitVec 1) (rd : BitVec 5) (u2 : BitVec 3) (u6 : BitVec 2), rd ≠ 0#5 →
      decodeEncoding (.half (2#3 ++ u5 ++ rd ++ u2 ++ u6 ++ 2#2)) = some (.cLwsp rd (u6 ++ u5 ++ u2 ++ 0#2))) ∧
    (∀ (u5 : BitVec 1) (lo : BitVec 5), decodeEncoding (.half (2#3 ++ u5 ++ 0#5 ++ lo ++ 2#2)) = none) ∧
    ∀ rd u s, (Instr.cLwsp rd u).expand = some (.lw rd 2#5 (u.zeroExtend 12)) ∧
      LoadsAt (.cLwsp rd u) s rd .word (readReg 2#5 s + u.zeroExtend 32) (s.pc + 2#32)
        (fun b => b 3 ++ b 2 ++ b 1 ++ b 0) (fun v => v)) ∧
  ((∀ (u2 : BitVec 4) (u6 : BitVec 2) (rs2 : BitVec 5),
      decodeEncoding (.half (6#3 ++ u2 ++ u6 ++ rs2 ++ 2#2)) = some (.cSwsp rs2 (u6 ++ u2 ++ 0#2))) ∧
    ∀ rs2 u s, (Instr.cSwsp rs2 u).expand = some (.sw 2#5 rs2 (u.zeroExtend 12)) ∧
      StoresAt (.cSwsp rs2 u) s .word (readReg 2#5 s + u.zeroExtend 32) (readReg rs2 s) (s.pc + 2#32)
        [(readReg rs2 s).extractLsb' 0 8, (readReg rs2 s).extractLsb' 8 8,
         (readReg rs2 s).extractLsb' 16 8, (readReg rs2 s).extractLsb' 24 8])

/-- R442 over every compressed instruction: where its expansion retires and is no jump or branch, it gives the same state
with the pc at `pc + 2`; where its expansion halts, it halts the same. (Jumps and branches: `CompressedControl`.) -/
def Obligations.CompressedAsExpansion : Prop :=
  ∀ (i e : Instr) (s t : State), i.expand = some e → kind i ∉ [.jump, .branch] → s.status = .running →
    exec e s = .next t →
    (t.status = .running → exec i s = .next { t with pc := s.pc + 2#32 }) ∧
    (t.status ≠ .running → exec i s = .next t)

/-! ### The fabric and the devices -/

/-- R75, R77: the classification by the lowest byte: the first present device in the order system control, keyboard, timer,
character port, framebuffer, whose region holds it (the regions' sizes and presence are R72's); else RAM when the whole
access fits; else nothing. -/
def Obligations.Classification : Prop :=
  ∀ (c : Config) (a : Word) (n : Nat),
    (inRegion c .sysctl a = true ↔ c.sysctlBase.toNat ≤ a.toNat ∧ a.toNat < c.sysctlBase.toNat + 4) ∧
    (inRegion c .keyboard a = true ↔
      c.kbdPresent = true ∧ c.kbdBase.toNat ≤ a.toNat ∧ a.toNat < c.kbdBase.toNat + 12) ∧
    (inRegion c .timer a = true ↔ c.timerBase.toNat ≤ a.toNat ∧ a.toNat < c.timerBase.toNat + 8) ∧
    (inRegion c .uart a = true ↔ c.uartBase.toNat ≤ a.toNat ∧ a.toNat < c.uartBase.toNat + 256) ∧
    (inRegion c .framebuffer a = true ↔
      c.fbPresent = true ∧ c.fbBase.toNat ≤ a.toNat ∧ a.toNat < c.fbBase.toNat + 640 * 480 * 4) ∧
    (regionBase c .sysctl = c.sysctlBase.toNat ∧ regionBase c .keyboard = c.kbdBase.toNat ∧
      regionBase c .timer = c.timerBase.toNat ∧ regionBase c .uart = c.uartBase.toNat ∧
      regionBase c .framebuffer = c.fbBase.toNat) ∧
    (∀ d, classify c a n = .dev d (a.toNat - regionBase c d) ↔
      inRegion c d a = true ∧
      ∀ e, [Device.sysctl, .keyboard, .timer, .uart, .framebuffer].idxOf e <
        [Device.sysctl, .keyboard, .timer, .uart, .framebuffer].idxOf d → inRegion c e a = false) ∧
    (classify c a n = .ram ↔ (∀ d, inRegion c d a = false) ∧ a.toNat + n ≤ c.memSize) ∧
    (classify c a n = .outOfRange ↔ (∀ d, inRegion c d a = false) ∧ c.memSize < a.toNat + n)

/-- R521 to R524: the character port, on every configuration R9 allows, at every offset and width, and the host's
append. -/
def Obligations.CharacterPort : Prop :=
  ∀ s : State, ConfigOk s.cfg →
    (s.dev.uartIn = [] → memRead s.cfg.uartBase .byte s = some (0#32, s)) ∧
    (∀ b q, s.dev.uartIn = b :: q → memRead s.cfg.uartBase .byte s =
      some (b.zeroExtend 32, { s with dev := { s.dev with uartIn := q } })) ∧
    (∀ bytes, hostAct (.feedUart bytes) s = some { s with dev := { s.dev with uartIn := s.dev.uartIn ++ bytes } }) ∧
    memRead (s.cfg.uartBase + 5#32) .byte s = some (if s.dev.uartIn = [] then 0x60#32 else 0x61#32, s) ∧
    (∀ (o : Nat) (n : Width), o < 256 → n ≠ .byte ∨ (o ≠ 0 ∧ o ≠ 5) →
      memRead (s.cfg.uartBase + BitVec.ofNat 32 o) n s = some (0#32, s)) ∧
    (∀ v, memWrite s.cfg.uartBase .byte v s = some (resvSnoop s.cfg.uartBase.toNat 1
      { s with env := { s.env with out := s.env.out ++ [v.extractLsb' 0 8] } })) ∧
    (∀ (o : Nat) (n : Width) (v : Word), o < 256 → n ≠ .byte ∨ o ≠ 0 →
      memWrite (s.cfg.uartBase + BitVec.ofNat 32 o) n v s =
        some (resvSnoop (s.cfg.uartBase.toNat + o) (widthBytes n) s))

/-- R530: the timer's two words, each read a draw of its own; other widths and offsets read 0; writes are ignored. -/
def Obligations.TimerRegisters : Prop :=
  ∀ s : State, ConfigOk s.cfg →
    OnlyDraws s (drawClock s) ∧
    memRead s.cfg.timerBase .word s = some ((timerValue s).extractLsb' 0 32, drawClock s) ∧
    memRead (s.cfg.timerBase + 4#32) .word s = some ((timerValue s).extractLsb' 32 32, drawClock s) ∧
    (∀ (o : Nat) (n : Width), o < 8 → n ≠ .word ∨ (o ≠ 0 ∧ o ≠ 4) →
      memRead (s.cfg.timerBase + BitVec.ofNat 32 o) n s = some (0#32, s)) ∧
    (∀ (o : Nat) (n : Width) (v : Word), o < 8 → memWrite (s.cfg.timerBase + BitVec.ofNat 32 o) n v s =
      some (resvSnoop (s.cfg.timerBase.toNat + o) (widthBytes n) s))

/-- R531: a draw gives the time since the origin of the reading it records, and no later draw of the same run gives less,
whatever the host's samples and whatever steps lie between. -/
def Obligations.TimerMonotone : Prop :=
  ∀ (n : Nat) (s u t : State), Inv s → u.env.t0Host = s.env.t0Host →
    u.env.clockLast = (drawClock s).env.clockLast → reaches n u t →
    s.env.t0Host + timerValue s = (drawClock s).env.clockLast ∧ timerValue s ≤ timerValue t

/-- R537: the framebuffer: a write of any width stores its bytes little-endian and a read returns them; the part past the
end reads 0 and is not written; RAM is untouched. -/
def Obligations.Framebuffer : Prop :=
  ∀ (s : State) (a : Word) (o : Nat) (n : Width), classify s.cfg a (widthBytes n) = .dev .framebuffer o →
    (∃ v, memRead a n s = some (v, s) ∧
      ∀ k, k < widthBytes n → v.extractLsb' (8 * k) 8 =
        if o + k < 640 * 480 * 4 then sparseGet s.dev.fb (o + k) else 0#8) ∧
    (∀ v, ∃ u, memWrite a n v s = some u ∧
      (∀ k, k < widthBytes n → o + k < 640 * 480 * 4 →
        sparseGet u.dev.fb (o + k) = v.extractLsb' (8 * k) 8) ∧
      (∀ b, b < o ∨ o + widthBytes n ≤ b ∨ 640 * 480 * 4 ≤ b →
        sparseGet u.dev.fb b = sparseGet s.dev.fb b) ∧
      u.resvValid = (resvSnoop a.toNat (widthBytes n) s).resvValid ∧
      { u with dev := { u.dev with fb := s.dev.fb }, resvValid := s.resvValid } = s)

/-- R540, R541: the keyboard's three registers at every offset and width, and the bounded push. -/
def Obligations.Keyboard : Prop :=
  ∀ s : State, ConfigOk s.cfg → s.cfg.kbdPresent = true →
    (∀ n, memRead s.cfg.kbdBase n s = some (if s.dev.kbdQ = [] then 0#32 else 1#32, s)) ∧
    (∀ n, s.dev.kbdQ = [] → memRead (s.cfg.kbdBase + 4#32) n s = some (0#32, s)) ∧
    (∀ n e q, s.dev.kbdQ = e :: q → memRead (s.cfg.kbdBase + 4#32) n s =
      some (BitVec.ofNat 32 (e.toNat % 2 ^ (8 * widthBytes n)), { s with dev := { s.dev with kbdQ := q } })) ∧
    (∀ (o : Nat) (n : Width), o < 12 → o ≠ 0 → o ≠ 4 →
      memRead (s.cfg.kbdBase + BitVec.ofNat 32 o) n s = some (0#32, s)) ∧
    (∀ n v, memWrite (s.cfg.kbdBase + 8#32) n v s = some (resvSnoop (s.cfg.kbdBase.toNat + 8) (widthBytes n)
      { s with dev := { s.dev with kbdQ := [] } })) ∧
    (∀ (o : Nat) (n : Width) (v : Word), o < 12 → o ≠ 8 → memWrite (s.cfg.kbdBase + BitVec.ofNat 32 o) n v s =
      some (resvSnoop (s.cfg.kbdBase.toNat + o) (widthBytes n) s)) ∧
    (∀ e, (pushKey e s).dev.kbdQ =
      if s.dev.kbdQ.length < s.cfg.kbdQueueCap then s.dev.kbdQ ++ [e] else s.dev.kbdQ)

/-- R546: only a word write of the magic value at offset 0 sets the quit flag; that SW retires, and the step after it ends
the run as Quit. Every other write, and every read, is silent. -/
def Obligations.SystemControl : Prop :=
  ∀ s : State, ConfigOk s.cfg →
    memWrite s.cfg.sysctlBase .word s.cfg.sysctlMagic s =
      some (resvSnoop s.cfg.sysctlBase.toNat 4 { s with dev := { s.dev with quit := true } }) ∧
    (∀ (o : Nat) (n : Width) (v : Word), o < 4 → n ≠ .word ∨ o ≠ 0 ∨ v ≠ s.cfg.sysctlMagic →
      memWrite (s.cfg.sysctlBase + BitVec.ofNat 32 o) n v s =
        some (resvSnoop (s.cfg.sysctlBase.toNat + o) (widthBytes n) s)) ∧
    (∀ (o : Nat) (n : Width), o < 4 →
      memRead (s.cfg.sysctlBase + BitVec.ofNat 32 o) n s = some (0#32, s)) ∧
    (∀ rs1 rs2, s.status = .running → readReg rs1 s = s.cfg.sysctlBase → readReg rs2 s = s.cfg.sysctlMagic →
      ∃ t, exec (.sw rs1 rs2 0#12) s = .next t ∧ t.status = .running ∧ t.pc = s.pc + 4#32 ∧
        step t = .next { t with status := .quit })

/-! ### Host actions -/

/-- R581, R582: reading a register or a byte of RAM gives it and 0 outside RAM; writing a byte writes it, snoops, and does
nothing outside RAM. -/
def Obligations.HostBytes : Prop :=
  ∀ (s : State) (a : Word),
    (∀ r, hostReadReg r s = readReg r s) ∧
    (a.toNat < s.cfg.memSize → hostReadByte a s = memByte s a.toNat) ∧
    (s.cfg.memSize ≤ a.toNat → hostReadByte a s = 0#8) ∧
    (∀ b, a.toNat < s.cfg.memSize → StoresBytes s a.toNat [b] (hostWriteByte a b s)) ∧
    (∀ b, s.cfg.memSize ≤ a.toNat → hostWriteByte a b s = s)

/-! ### The framebuffer's pixels -/

/-- R536: the framebuffer is 640 by 480 pixels of four bytes; pixel `(px, py)` is the little-endian word
`A<<24 | R<<16 | G<<8 | B` at offset `4*(py*640 + px)`, its bytes in address order B, G, R, A; a word read there gives that
word, and a word written there is that pixel, and no other pixel changes. -/
def Obligations.FramebufferPixels : Prop :=
  fbSize = 640 * 480 * 4 ∧
  ∀ (s : State) (px py : Nat), px < 640 → py < 480 →
    (fbPixel s px py).blue = fbByte s (4 * (py * 640 + px)) ∧
    (fbPixel s px py).green = fbByte s (4 * (py * 640 + px) + 1) ∧
    (fbPixel s px py).red = fbByte s (4 * (py * 640 + px) + 2) ∧
    (fbPixel s px py).alpha = fbByte s (4 * (py * 640 + px) + 3) ∧
    4 * (py * 640 + px) + 4 ≤ 640 * 480 * 4 ∧
    ∀ a : Word, classify s.cfg a 4 = .dev .framebuffer (4 * (py * 640 + px)) →
      memRead a .word s = some
        ((fbPixel s px py).alpha.zeroExtend 32 <<< 24 ||| (fbPixel s px py).red.zeroExtend 32 <<< 16 |||
          (fbPixel s px py).green.zeroExtend 32 <<< 8 ||| (fbPixel s px py).blue.zeroExtend 32, s) ∧
      ∀ p : Pixel, ∃ u, memWrite a .word (p.alpha.zeroExtend 32 <<< 24 ||| p.red.zeroExtend 32 <<< 16 |||
          p.green.zeroExtend 32 <<< 8 ||| p.blue.zeroExtend 32) s = some u ∧
        fbPixel u px py = p ∧
        ∀ qx qy, qx < 640 → qy < 480 → (qx, qy) ≠ (px, py) → fbPixel u qx qy = fbPixel s qx qy
end

