-- ==== Sys2Proof/Laws/State.lean ====
section
/-! SUPPORT. What each update of the state leaves in each field, so that no later proof unfolds a record update. -/

namespace Sys2Proof.Machine

/-! ### writeReg -/

section
variable (r : RegIdx) (v : Word) (s : State)

@[simp] theorem writeReg_cfg : (writeReg r v s).cfg = s.cfg := rfl
@[simp] theorem writeReg_pc : (writeReg r v s).pc = s.pc := rfl
@[simp] theorem writeReg_instret : (writeReg r v s).instret = s.instret := rfl
@[simp] theorem writeReg_csrmem : (writeReg r v s).csrmem = s.csrmem := rfl
@[simp] theorem writeReg_resvValid : (writeReg r v s).resvValid = s.resvValid := rfl
@[simp] theorem writeReg_resvAddr : (writeReg r v s).resvAddr = s.resvAddr := rfl
@[simp] theorem writeReg_mem : (writeReg r v s).mem = s.mem := rfl
@[simp] theorem writeReg_dev : (writeReg r v s).dev = s.dev := rfl
@[simp] theorem writeReg_env : (writeReg r v s).env = s.env := rfl
@[simp] theorem writeReg_status : (writeReg r v s).status = s.status := rfl
@[simp] theorem writeReg_dbg : (writeReg r v s).dbg = s.dbg := rfl

end

/-! ### retire -/

section
variable (n : Word) (s : State)

@[simp] theorem retire_cfg : (retire n s).cfg = s.cfg := rfl
@[simp] theorem retire_csrmem : (retire n s).csrmem = s.csrmem := rfl
@[simp] theorem retire_resvValid : (retire n s).resvValid = s.resvValid := rfl
@[simp] theorem retire_resvAddr : (retire n s).resvAddr = s.resvAddr := rfl
@[simp] theorem retire_mem : (retire n s).mem = s.mem := rfl
@[simp] theorem retire_dev : (retire n s).dev = s.dev := rfl
@[simp] theorem retire_env : (retire n s).env = s.env := rfl
@[simp] theorem retire_status : (retire n s).status = s.status := rfl
@[simp] theorem retire_dbg : (retire n s).dbg = s.dbg := rfl
@[simp] theorem retire_pc : (retire n s).pc = n := rfl
@[simp] theorem retire_instret : (retire n s).instret = s.instret + 1#64 := rfl
@[simp] theorem retire_regs : (retire n s).regs = s.regs.set 0 0#32 := rfl

end

/-! ### setResv -/

section
variable (a : Word) (s : State)

@[simp] theorem setResv_cfg : (setResv a s).cfg = s.cfg := rfl
@[simp] theorem setResv_regs : (setResv a s).regs = s.regs := rfl
@[simp] theorem setResv_pc : (setResv a s).pc = s.pc := rfl
@[simp] theorem setResv_instret : (setResv a s).instret = s.instret := rfl
@[simp] theorem setResv_csrmem : (setResv a s).csrmem = s.csrmem := rfl
@[simp] theorem setResv_mem : (setResv a s).mem = s.mem := rfl
@[simp] theorem setResv_dev : (setResv a s).dev = s.dev := rfl
@[simp] theorem setResv_env : (setResv a s).env = s.env := rfl
@[simp] theorem setResv_status : (setResv a s).status = s.status := rfl
@[simp] theorem setResv_dbg : (setResv a s).dbg = s.dbg := rfl
@[simp] theorem setResv_resvValid : (setResv a s).resvValid = true := rfl
@[simp] theorem setResv_resvAddr : (setResv a s).resvAddr = a := rfl

end

/-! ### clearResv -/

section
variable (s : State)

@[simp] theorem clearResv_cfg : (clearResv s).cfg = s.cfg := rfl
@[simp] theorem clearResv_regs : (clearResv s).regs = s.regs := rfl
@[simp] theorem clearResv_pc : (clearResv s).pc = s.pc := rfl
@[simp] theorem clearResv_instret : (clearResv s).instret = s.instret := rfl
@[simp] theorem clearResv_csrmem : (clearResv s).csrmem = s.csrmem := rfl
@[simp] theorem clearResv_resvAddr : (clearResv s).resvAddr = s.resvAddr := rfl
@[simp] theorem clearResv_mem : (clearResv s).mem = s.mem := rfl
@[simp] theorem clearResv_dev : (clearResv s).dev = s.dev := rfl
@[simp] theorem clearResv_env : (clearResv s).env = s.env := rfl
@[simp] theorem clearResv_status : (clearResv s).status = s.status := rfl
@[simp] theorem clearResv_dbg : (clearResv s).dbg = s.dbg := rfl
@[simp] theorem clearResv_resvValid : (clearResv s).resvValid = false := rfl

end

/-! ### resvSnoop -/

section
variable (a n : Nat) (s : State)

@[simp] theorem resvSnoop_cfg : (resvSnoop a n s).cfg = s.cfg := rfl
@[simp] theorem resvSnoop_regs : (resvSnoop a n s).regs = s.regs := rfl
@[simp] theorem resvSnoop_pc : (resvSnoop a n s).pc = s.pc := rfl
@[simp] theorem resvSnoop_instret : (resvSnoop a n s).instret = s.instret := rfl
@[simp] theorem resvSnoop_csrmem : (resvSnoop a n s).csrmem = s.csrmem := rfl
@[simp] theorem resvSnoop_resvAddr : (resvSnoop a n s).resvAddr = s.resvAddr := rfl
@[simp] theorem resvSnoop_mem : (resvSnoop a n s).mem = s.mem := rfl
@[simp] theorem resvSnoop_dev : (resvSnoop a n s).dev = s.dev := rfl
@[simp] theorem resvSnoop_env : (resvSnoop a n s).env = s.env := rfl
@[simp] theorem resvSnoop_status : (resvSnoop a n s).status = s.status := rfl
@[simp] theorem resvSnoop_dbg : (resvSnoop a n s).dbg = s.dbg := rfl
@[simp] theorem resvSnoop_resvValid : (resvSnoop a n s).resvValid = (s.resvValid && !rangesMeet a n s.resvAddr.toNat 4) := rfl

end

/-! ### writeRam -/

section
variable (a : Nat) (bs : List Byte) (s : State)

@[simp] theorem writeRam_cfg : (writeRam a bs s).cfg = s.cfg := rfl
@[simp] theorem writeRam_regs : (writeRam a bs s).regs = s.regs := rfl
@[simp] theorem writeRam_pc : (writeRam a bs s).pc = s.pc := rfl
@[simp] theorem writeRam_instret : (writeRam a bs s).instret = s.instret := rfl
@[simp] theorem writeRam_csrmem : (writeRam a bs s).csrmem = s.csrmem := rfl
@[simp] theorem writeRam_resvAddr : (writeRam a bs s).resvAddr = s.resvAddr := rfl
@[simp] theorem writeRam_dev : (writeRam a bs s).dev = s.dev := rfl
@[simp] theorem writeRam_env : (writeRam a bs s).env = s.env := rfl
@[simp] theorem writeRam_status : (writeRam a bs s).status = s.status := rfl
@[simp] theorem writeRam_dbg : (writeRam a bs s).dbg = s.dbg := rfl
@[simp] theorem writeRam_mem : (writeRam a bs s).mem = writeBytes s.mem a bs := rfl
@[simp] theorem writeRam_resvValid : (writeRam a bs s).resvValid = (s.resvValid && !rangesMeet a bs.length s.resvAddr.toNat 4) := rfl

end

/-! ### drawClock -/

section
variable (s : State)

@[simp] theorem drawClock_cfg : (drawClock s).cfg = s.cfg := rfl
@[simp] theorem drawClock_regs : (drawClock s).regs = s.regs := rfl
@[simp] theorem drawClock_pc : (drawClock s).pc = s.pc := rfl
@[simp] theorem drawClock_instret : (drawClock s).instret = s.instret := rfl
@[simp] theorem drawClock_csrmem : (drawClock s).csrmem = s.csrmem := rfl
@[simp] theorem drawClock_resvValid : (drawClock s).resvValid = s.resvValid := rfl
@[simp] theorem drawClock_resvAddr : (drawClock s).resvAddr = s.resvAddr := rfl
@[simp] theorem drawClock_mem : (drawClock s).mem = s.mem := rfl
@[simp] theorem drawClock_dev : (drawClock s).dev = s.dev := rfl
@[simp] theorem drawClock_status : (drawClock s).status = s.status := rfl
@[simp] theorem drawClock_dbg : (drawClock s).dbg = s.dbg := rfl

end

/-! ### drawRead -/

section
variable (s : State)

@[simp] theorem drawRead_cfg : (drawRead s).cfg = s.cfg := rfl
@[simp] theorem drawRead_regs : (drawRead s).regs = s.regs := rfl
@[simp] theorem drawRead_pc : (drawRead s).pc = s.pc := rfl
@[simp] theorem drawRead_instret : (drawRead s).instret = s.instret := rfl
@[simp] theorem drawRead_csrmem : (drawRead s).csrmem = s.csrmem := rfl
@[simp] theorem drawRead_resvValid : (drawRead s).resvValid = s.resvValid := rfl
@[simp] theorem drawRead_resvAddr : (drawRead s).resvAddr = s.resvAddr := rfl
@[simp] theorem drawRead_mem : (drawRead s).mem = s.mem := rfl
@[simp] theorem drawRead_dev : (drawRead s).dev = s.dev := rfl
@[simp] theorem drawRead_status : (drawRead s).status = s.status := rfl
@[simp] theorem drawRead_dbg : (drawRead s).dbg = s.dbg := rfl

end

/-! ### drawMmap -/

section
variable (len : Word) (r : Option Word) (s : State)

@[simp] theorem drawMmap_cfg : (drawMmap len r s).cfg = s.cfg := rfl
@[simp] theorem drawMmap_regs : (drawMmap len r s).regs = s.regs := rfl
@[simp] theorem drawMmap_pc : (drawMmap len r s).pc = s.pc := rfl
@[simp] theorem drawMmap_instret : (drawMmap len r s).instret = s.instret := rfl
@[simp] theorem drawMmap_csrmem : (drawMmap len r s).csrmem = s.csrmem := rfl
@[simp] theorem drawMmap_resvValid : (drawMmap len r s).resvValid = s.resvValid := rfl
@[simp] theorem drawMmap_resvAddr : (drawMmap len r s).resvAddr = s.resvAddr := rfl
@[simp] theorem drawMmap_mem : (drawMmap len r s).mem = s.mem := rfl
@[simp] theorem drawMmap_dev : (drawMmap len r s).dev = s.dev := rfl
@[simp] theorem drawMmap_status : (drawMmap len r s).status = s.status := rfl
@[simp] theorem drawMmap_dbg : (drawMmap len r s).dbg = s.dbg := rfl

end

/-! ### emit -/

section
variable (bs : List Byte) (s : State)

@[simp] theorem emit_cfg : (emit bs s).cfg = s.cfg := rfl
@[simp] theorem emit_regs : (emit bs s).regs = s.regs := rfl
@[simp] theorem emit_pc : (emit bs s).pc = s.pc := rfl
@[simp] theorem emit_instret : (emit bs s).instret = s.instret := rfl
@[simp] theorem emit_csrmem : (emit bs s).csrmem = s.csrmem := rfl
@[simp] theorem emit_resvValid : (emit bs s).resvValid = s.resvValid := rfl
@[simp] theorem emit_resvAddr : (emit bs s).resvAddr = s.resvAddr := rfl
@[simp] theorem emit_mem : (emit bs s).mem = s.mem := rfl
@[simp] theorem emit_dev : (emit bs s).dev = s.dev := rfl
@[simp] theorem emit_status : (emit bs s).status = s.status := rfl
@[simp] theorem emit_dbg : (emit bs s).dbg = s.dbg := rfl

end

/-! ### popUart -/

section
variable (s : State)

@[simp] theorem popUart_cfg : (popUart s).cfg = s.cfg := rfl
@[simp] theorem popUart_regs : (popUart s).regs = s.regs := rfl
@[simp] theorem popUart_pc : (popUart s).pc = s.pc := rfl
@[simp] theorem popUart_instret : (popUart s).instret = s.instret := rfl
@[simp] theorem popUart_csrmem : (popUart s).csrmem = s.csrmem := rfl
@[simp] theorem popUart_resvValid : (popUart s).resvValid = s.resvValid := rfl
@[simp] theorem popUart_resvAddr : (popUart s).resvAddr = s.resvAddr := rfl
@[simp] theorem popUart_mem : (popUart s).mem = s.mem := rfl
@[simp] theorem popUart_env : (popUart s).env = s.env := rfl
@[simp] theorem popUart_status : (popUart s).status = s.status := rfl
@[simp] theorem popUart_dbg : (popUart s).dbg = s.dbg := rfl

end

/-! ### popKbd -/

section
variable (s : State)

@[simp] theorem popKbd_cfg : (popKbd s).cfg = s.cfg := rfl
@[simp] theorem popKbd_regs : (popKbd s).regs = s.regs := rfl
@[simp] theorem popKbd_pc : (popKbd s).pc = s.pc := rfl
@[simp] theorem popKbd_instret : (popKbd s).instret = s.instret := rfl
@[simp] theorem popKbd_csrmem : (popKbd s).csrmem = s.csrmem := rfl
@[simp] theorem popKbd_resvValid : (popKbd s).resvValid = s.resvValid := rfl
@[simp] theorem popKbd_resvAddr : (popKbd s).resvAddr = s.resvAddr := rfl
@[simp] theorem popKbd_mem : (popKbd s).mem = s.mem := rfl
@[simp] theorem popKbd_env : (popKbd s).env = s.env := rfl
@[simp] theorem popKbd_status : (popKbd s).status = s.status := rfl
@[simp] theorem popKbd_dbg : (popKbd s).dbg = s.dbg := rfl

end

/-! ### fbWrite -/

section
variable (o : Nat) (n : Width) (v : Word) (s : State)

@[simp] theorem fbWrite_cfg : (fbWrite o n v s).cfg = s.cfg := rfl
@[simp] theorem fbWrite_regs : (fbWrite o n v s).regs = s.regs := rfl
@[simp] theorem fbWrite_pc : (fbWrite o n v s).pc = s.pc := rfl
@[simp] theorem fbWrite_instret : (fbWrite o n v s).instret = s.instret := rfl
@[simp] theorem fbWrite_csrmem : (fbWrite o n v s).csrmem = s.csrmem := rfl
@[simp] theorem fbWrite_resvValid : (fbWrite o n v s).resvValid = s.resvValid := rfl
@[simp] theorem fbWrite_resvAddr : (fbWrite o n v s).resvAddr = s.resvAddr := rfl
@[simp] theorem fbWrite_mem : (fbWrite o n v s).mem = s.mem := rfl
@[simp] theorem fbWrite_env : (fbWrite o n v s).env = s.env := rfl
@[simp] theorem fbWrite_status : (fbWrite o n v s).status = s.status := rfl
@[simp] theorem fbWrite_dbg : (fbWrite o n v s).dbg = s.dbg := rfl

end

/-! ### csrWrite -/

section
variable (c : CsrIdx) (v : Word) (s : State)

@[simp] theorem csrWrite_cfg : (csrWrite c v s).cfg = s.cfg := rfl
@[simp] theorem csrWrite_regs : (csrWrite c v s).regs = s.regs := rfl
@[simp] theorem csrWrite_pc : (csrWrite c v s).pc = s.pc := rfl
@[simp] theorem csrWrite_instret : (csrWrite c v s).instret = s.instret := rfl
@[simp] theorem csrWrite_resvValid : (csrWrite c v s).resvValid = s.resvValid := rfl
@[simp] theorem csrWrite_resvAddr : (csrWrite c v s).resvAddr = s.resvAddr := rfl
@[simp] theorem csrWrite_mem : (csrWrite c v s).mem = s.mem := rfl
@[simp] theorem csrWrite_dev : (csrWrite c v s).dev = s.dev := rfl
@[simp] theorem csrWrite_env : (csrWrite c v s).env = s.env := rfl
@[simp] theorem csrWrite_status : (csrWrite c v s).status = s.status := rfl
@[simp] theorem csrWrite_dbg : (csrWrite c v s).dbg = s.dbg := rfl
@[simp] theorem csrWrite_csrmem : (csrWrite c v s).csrmem = if c ∈ counterCsrs then s.csrmem else sparseSet s.csrmem c.toNat v := rfl

end

/-! ### recordStep -/

section
variable (pre : State) (e : Encoding) (i : Instr) (s : State)

@[simp] theorem recordStep_cfg : (recordStep pre e i s).cfg = s.cfg := rfl
@[simp] theorem recordStep_regs : (recordStep pre e i s).regs = s.regs := rfl
@[simp] theorem recordStep_pc : (recordStep pre e i s).pc = s.pc := rfl
@[simp] theorem recordStep_instret : (recordStep pre e i s).instret = s.instret := rfl
@[simp] theorem recordStep_csrmem : (recordStep pre e i s).csrmem = s.csrmem := rfl
@[simp] theorem recordStep_resvValid : (recordStep pre e i s).resvValid = s.resvValid := rfl
@[simp] theorem recordStep_resvAddr : (recordStep pre e i s).resvAddr = s.resvAddr := rfl
@[simp] theorem recordStep_mem : (recordStep pre e i s).mem = s.mem := rfl
@[simp] theorem recordStep_dev : (recordStep pre e i s).dev = s.dev := rfl
@[simp] theorem recordStep_env : (recordStep pre e i s).env = s.env := rfl
@[simp] theorem recordStep_status : (recordStep pre e i s).status = s.status := rfl

end

/-! ### restore -/

section
variable (p : Snapshot) (older : List Snapshot) (s : State)

@[simp] theorem restore_cfg : (restore p older s).cfg = s.cfg := rfl
@[simp] theorem restore_csrmem : (restore p older s).csrmem = s.csrmem := rfl
@[simp] theorem restore_resvValid : (restore p older s).resvValid = s.resvValid := rfl
@[simp] theorem restore_resvAddr : (restore p older s).resvAddr = s.resvAddr := rfl
@[simp] theorem restore_mem : (restore p older s).mem = s.mem := rfl
@[simp] theorem restore_dev : (restore p older s).dev = s.dev := rfl
@[simp] theorem restore_env : (restore p older s).env = s.env := rfl
@[simp] theorem restore_status : (restore p older s).status = s.status := rfl
@[simp] theorem restore_pc : (restore p older s).pc = p.pc := rfl
@[simp] theorem restore_regs : (restore p older s).regs = p.regs := rfl
@[simp] theorem restore_instret : (restore p older s).instret = p.instret := rfl

end

/-! ### loaded -/

section
variable (bytes : List Byte) (addr entry : Word) (s : State)

@[simp] theorem loaded_cfg : (loaded bytes addr entry s).cfg = s.cfg := rfl
@[simp] theorem loaded_csrmem : (loaded bytes addr entry s).csrmem = s.csrmem := rfl
@[simp] theorem loaded_resvAddr : (loaded bytes addr entry s).resvAddr = s.resvAddr := rfl
@[simp] theorem loaded_env : (loaded bytes addr entry s).env = s.env := rfl
@[simp] theorem loaded_pc : (loaded bytes addr entry s).pc = entry := rfl
@[simp] theorem loaded_regs : (loaded bytes addr entry s).regs = Vector.replicate 32 0#32 := rfl
@[simp] theorem loaded_mem : (loaded bytes addr entry s).mem = writeBytes s.mem addr.toNat bytes := rfl
@[simp] theorem loaded_status : (loaded bytes addr entry s).status = .running := rfl

end

/-! ### feedUart -/

section
variable (bytes : List Byte) (s : State)

@[simp] theorem feedUart_cfg : (feedUart bytes s).cfg = s.cfg := rfl
@[simp] theorem feedUart_regs : (feedUart bytes s).regs = s.regs := rfl
@[simp] theorem feedUart_pc : (feedUart bytes s).pc = s.pc := rfl
@[simp] theorem feedUart_instret : (feedUart bytes s).instret = s.instret := rfl
@[simp] theorem feedUart_csrmem : (feedUart bytes s).csrmem = s.csrmem := rfl
@[simp] theorem feedUart_resvValid : (feedUart bytes s).resvValid = s.resvValid := rfl
@[simp] theorem feedUart_resvAddr : (feedUart bytes s).resvAddr = s.resvAddr := rfl
@[simp] theorem feedUart_mem : (feedUart bytes s).mem = s.mem := rfl
@[simp] theorem feedUart_env : (feedUart bytes s).env = s.env := rfl
@[simp] theorem feedUart_status : (feedUart bytes s).status = s.status := rfl
@[simp] theorem feedUart_dbg : (feedUart bytes s).dbg = s.dbg := rfl

end

/-! ### pushKey -/

section
variable (e : Word) (s : State)

@[simp] theorem pushKey_cfg : (pushKey e s).cfg = s.cfg := rfl
@[simp] theorem pushKey_regs : (pushKey e s).regs = s.regs := rfl
@[simp] theorem pushKey_pc : (pushKey e s).pc = s.pc := rfl
@[simp] theorem pushKey_instret : (pushKey e s).instret = s.instret := rfl
@[simp] theorem pushKey_csrmem : (pushKey e s).csrmem = s.csrmem := rfl
@[simp] theorem pushKey_resvValid : (pushKey e s).resvValid = s.resvValid := rfl
@[simp] theorem pushKey_resvAddr : (pushKey e s).resvAddr = s.resvAddr := rfl
@[simp] theorem pushKey_mem : (pushKey e s).mem = s.mem := rfl
@[simp] theorem pushKey_env : (pushKey e s).env = s.env := rfl
@[simp] theorem pushKey_status : (pushKey e s).status = s.status := rfl
@[simp] theorem pushKey_dbg : (pushKey e s).dbg = s.dbg := rfl

end

/-! ### setQuit -/

section
variable (s : State)

@[simp] theorem setQuit_cfg : (setQuit s).cfg = s.cfg := rfl
@[simp] theorem setQuit_regs : (setQuit s).regs = s.regs := rfl
@[simp] theorem setQuit_pc : (setQuit s).pc = s.pc := rfl
@[simp] theorem setQuit_instret : (setQuit s).instret = s.instret := rfl
@[simp] theorem setQuit_csrmem : (setQuit s).csrmem = s.csrmem := rfl
@[simp] theorem setQuit_resvValid : (setQuit s).resvValid = s.resvValid := rfl
@[simp] theorem setQuit_resvAddr : (setQuit s).resvAddr = s.resvAddr := rfl
@[simp] theorem setQuit_mem : (setQuit s).mem = s.mem := rfl
@[simp] theorem setQuit_env : (setQuit s).env = s.env := rfl
@[simp] theorem setQuit_status : (setQuit s).status = s.status := rfl
@[simp] theorem setQuit_dbg : (setQuit s).dbg = s.dbg := rfl

end

/-! ### supplyClock -/

section
variable (x : List Dword) (s : State)

@[simp] theorem supplyClock_cfg : (supplyClock x s).cfg = s.cfg := rfl
@[simp] theorem supplyClock_regs : (supplyClock x s).regs = s.regs := rfl
@[simp] theorem supplyClock_pc : (supplyClock x s).pc = s.pc := rfl
@[simp] theorem supplyClock_instret : (supplyClock x s).instret = s.instret := rfl
@[simp] theorem supplyClock_csrmem : (supplyClock x s).csrmem = s.csrmem := rfl
@[simp] theorem supplyClock_resvValid : (supplyClock x s).resvValid = s.resvValid := rfl
@[simp] theorem supplyClock_resvAddr : (supplyClock x s).resvAddr = s.resvAddr := rfl
@[simp] theorem supplyClock_mem : (supplyClock x s).mem = s.mem := rfl
@[simp] theorem supplyClock_dev : (supplyClock x s).dev = s.dev := rfl
@[simp] theorem supplyClock_status : (supplyClock x s).status = s.status := rfl
@[simp] theorem supplyClock_dbg : (supplyClock x s).dbg = s.dbg := rfl

end

/-! ### supplyRead -/

section
variable (x : List (List Byte)) (s : State)

@[simp] theorem supplyRead_cfg : (supplyRead x s).cfg = s.cfg := rfl
@[simp] theorem supplyRead_regs : (supplyRead x s).regs = s.regs := rfl
@[simp] theorem supplyRead_pc : (supplyRead x s).pc = s.pc := rfl
@[simp] theorem supplyRead_instret : (supplyRead x s).instret = s.instret := rfl
@[simp] theorem supplyRead_csrmem : (supplyRead x s).csrmem = s.csrmem := rfl
@[simp] theorem supplyRead_resvValid : (supplyRead x s).resvValid = s.resvValid := rfl
@[simp] theorem supplyRead_resvAddr : (supplyRead x s).resvAddr = s.resvAddr := rfl
@[simp] theorem supplyRead_mem : (supplyRead x s).mem = s.mem := rfl
@[simp] theorem supplyRead_dev : (supplyRead x s).dev = s.dev := rfl
@[simp] theorem supplyRead_status : (supplyRead x s).status = s.status := rfl
@[simp] theorem supplyRead_dbg : (supplyRead x s).dbg = s.dbg := rfl

end

/-! ### supplyMmap -/

section
variable (x : List (Option Word)) (s : State)

@[simp] theorem supplyMmap_cfg : (supplyMmap x s).cfg = s.cfg := rfl
@[simp] theorem supplyMmap_regs : (supplyMmap x s).regs = s.regs := rfl
@[simp] theorem supplyMmap_pc : (supplyMmap x s).pc = s.pc := rfl
@[simp] theorem supplyMmap_instret : (supplyMmap x s).instret = s.instret := rfl
@[simp] theorem supplyMmap_csrmem : (supplyMmap x s).csrmem = s.csrmem := rfl
@[simp] theorem supplyMmap_resvValid : (supplyMmap x s).resvValid = s.resvValid := rfl
@[simp] theorem supplyMmap_resvAddr : (supplyMmap x s).resvAddr = s.resvAddr := rfl
@[simp] theorem supplyMmap_mem : (supplyMmap x s).mem = s.mem := rfl
@[simp] theorem supplyMmap_dev : (supplyMmap x s).dev = s.dev := rfl
@[simp] theorem supplyMmap_status : (supplyMmap x s).status = s.status := rfl
@[simp] theorem supplyMmap_dbg : (supplyMmap x s).dbg = s.dbg := rfl

end

/-! ### Inside the devices and the environment -/

section
variable (s : State) (n : Nat)

@[simp] theorem popUart_dev : (popUart s).dev = { s.dev with uartIn := s.dev.uartIn.tail } := rfl
@[simp] theorem popKbd_dev : (popKbd s).dev = { s.dev with kbdQ := s.dev.kbdQ.tail } := rfl
@[simp] theorem setQuit_dev : (setQuit s).dev = { s.dev with quit := true } := rfl
@[simp] theorem fbWrite_dev (o : Nat) (w : Width) (v : Word) : (fbWrite o w v s).dev =
    { s.dev with fb := writeBytes s.dev.fb o ((leBytes w v).take (fbSize - o)) } := rfl
@[simp] theorem emit_env (bs : List Byte) : (emit bs s).env = { s.env with out := s.env.out ++ bs } := rfl
@[simp] theorem drawClock_t0Host : (drawClock s).env.t0Host = s.env.t0Host := rfl
@[simp] theorem drawClock_clockLast : (drawClock s).env.clockLast = clockReading s := rfl
@[simp] theorem drawRead_t0Host : (drawRead s).env.t0Host = s.env.t0Host := rfl
@[simp] theorem drawRead_clockLast : (drawRead s).env.clockLast = s.env.clockLast := rfl
@[simp] theorem drawMmap_t0Host (len : Word) (r : Option Word) : (drawMmap len r s).env.t0Host = s.env.t0Host := rfl
@[simp] theorem drawMmap_clockLast (len : Word) (r : Option Word) :
    (drawMmap len r s).env.clockLast = s.env.clockLast := rfl
@[simp] theorem supplyClock_t0Host (x : List Dword) : (supplyClock x s).env.t0Host = s.env.t0Host := rfl
@[simp] theorem supplyClock_clockLast (x : List Dword) : (supplyClock x s).env.clockLast = s.env.clockLast := rfl
@[simp] theorem supplyRead_t0Host (x : List (List Byte)) : (supplyRead x s).env.t0Host = s.env.t0Host := rfl
@[simp] theorem supplyRead_clockLast (x : List (List Byte)) : (supplyRead x s).env.clockLast = s.env.clockLast := rfl
@[simp] theorem supplyMmap_t0Host (x : List (Option Word)) : (supplyMmap x s).env.t0Host = s.env.t0Host := rfl
@[simp] theorem supplyMmap_clockLast (x : List (Option Word)) : (supplyMmap x s).env.clockLast = s.env.clockLast := rfl
@[simp] theorem loaded_dev (bytes : List Byte) (addr entry : Word) :
    (loaded bytes addr entry s).dev = { s.dev with quit := false } := rfl

end

end Sys2Proof.Machine
end

