-- ==== Sys2Proof/Laws/Sparse.lean ====
section
/-! SUPPORT. Sparse storage: reading after writing, for every list; what keeps the canonical form and a bound on the keys.
Registers: reading after writing. -/

namespace Sys2Proof.Machine

variable {w : Nat}

/-- Reading a key is not changed by dropping entries at or below a smaller key. -/
theorem sparseGet_filter (m : List (Nat × BitVec w)) {a b : Nat} (h : a < b) :
    sparseGet (m.filter fun e => decide (a < e.1)) b = sparseGet m b := by
  induction m with
  | nil => rfl
  | cons e rest ih =>
    obtain ⟨k, v⟩ := e
    by_cases hk : a < k
    · simp [hk, sparseGet, ih]
    · have h1 : ¬ b < k := by omega
      have h2 : ¬ b = k := by omega
      simp [hk, sparseGet, ih, h1, h2]

/-- Nothing is read at or below a bound under all keys. -/
theorem sparseGet_filter_le (m : List (Nat × BitVec w)) {a b : Nat} (h : b ≤ a) :
    sparseGet (m.filter fun e => decide (a < e.1)) b = 0#w := by
  induction m with
  | nil => rfl
  | cons e rest ih =>
    obtain ⟨k, v⟩ := e
    by_cases hk : a < k
    · have : b < k := by omega
      simp [hk, sparseGet, this]
    · simp [hk, ih]

/-- Reading after writing, at every key of every list. -/
theorem sparseGet_sparseSet (m : List (Nat × BitVec w)) (a b : Nat) (v : BitVec w) :
    sparseGet (sparseSet m a v) b = if b = a then v else sparseGet m b := by
  induction m with
  | nil => by_cases hv : v = 0#w <;> by_cases hb : b = a <;> simp [sparseSet, sparseGet, hv, hb]
  | cons e rest ih =>
    obtain ⟨k, u⟩ := e
    by_cases hak : a < k
    · by_cases hv : v = 0#w <;> by_cases hb : b = a <;> simp_all [sparseSet, sparseGet]
      intro hba
      have : b < k := by omega
      simp [this]
    · by_cases hk : a = k
      · subst hk
        by_cases hv : v = 0#w
        · by_cases hb : b ≤ a
          · by_cases hba : b = a
            · simp [sparseSet, hv, hba, sparseGet_filter_le rest (Nat.le_refl a)]
            · have : b < a := by omega
              simp [sparseSet, hv, hba, sparseGet_filter_le rest hb, sparseGet, this]
          · have h1 : a < b := by omega
            have h2 : ¬ b = a := by omega
            have h3 : ¬ b < a := by omega
            simp [sparseSet, hv, h2, h3, sparseGet_filter rest h1, sparseGet]
        · by_cases hb : b = a <;> simp [sparseSet, sparseGet, hv, hb]
      · by_cases hb : b = a
        · subst hb; simp [sparseSet, sparseGet, hak, hk, ih]
        · simp [sparseSet, sparseGet, hak, hk, ih, hb]

/-- The keys of a list after a write are old ones, or the key written. -/
theorem mem_sparseSet {m : List (Nat × BitVec w)} {a : Nat} {v : BitVec w} {e : Nat × BitVec w}
    (h : e ∈ sparseSet m a v) : e ∈ m ∨ (e = (a, v) ∧ v ≠ 0#w) := by
  induction m with
  | nil =>
    simp only [sparseSet] at h
    split at h <;> simp_all
  | cons f rest ih =>
    obtain ⟨k, u⟩ := f
    simp only [sparseSet] at h
    split at h
    · split at h <;> simp_all
      tauto
    · split at h
      · split at h
        · exact .inl (List.mem_cons_of_mem _ (List.mem_of_mem_filter h))
        · simp only [List.mem_cons] at h
          rcases h with h | h
          · exact .inr ⟨h, ‹_›⟩
          · exact .inl (List.mem_cons_of_mem _ h)
      · simp only [List.mem_cons] at h
        rcases h with h | h
        · exact .inl (by simp [h])
        · rcases ih h with h | h
          · exact .inl (List.mem_cons_of_mem _ h)
          · exact .inr h

/-- A write keeps the canonical form. -/
theorem sparseSet_wf {m : List (Nat × BitVec w)} (h : Sparse.wf m) (a : Nat) (v : BitVec w) :
    Sparse.wf (sparseSet m a v) := by
  refine ⟨?_, fun e he => ?_⟩
  · induction m with
    | nil => by_cases hv : v = 0#w <;> simp [sparseSet, hv]
    | cons f rest ih =>
      obtain ⟨k, u⟩ := f
      obtain ⟨hp, hz⟩ := h
      have hp' := List.pairwise_cons.mp hp
      have hrest : Sparse.wf rest := ⟨hp'.2, fun e he => hz e (List.mem_cons_of_mem _ he)⟩
      simp only [sparseSet]
      split
      · split
        · exact hp
        · refine List.pairwise_cons.mpr ⟨fun e he => ?_, hp⟩
          rcases List.mem_cons.mp he with rfl | he
          · assumption
          · have := hp'.1 e he
            simp only at this ⊢
            omega
      · split
        · split
          · exact hp'.2.filter _
          · refine List.pairwise_cons.mpr ⟨fun e he => ?_, hp'.2⟩
            have := hp'.1 e he
            simp only at this ⊢
            omega
        · refine List.pairwise_cons.mpr ⟨fun e he => ?_, ih hrest⟩
          rcases mem_sparseSet he with he | he
          · exact hp'.1 e he
          · rw [he.1]
            simp only
            omega
  · rcases mem_sparseSet he with he | he
    · exact h.2 e he
    · rw [he.1]; exact he.2

/-- A write below a bound keeps the bound. -/
theorem sparseSet_lt {m : List (Nat × BitVec w)} {N a : Nat} (h : ∀ e ∈ m, e.1 < N) (ha : a < N) (v : BitVec w) :
    ∀ e ∈ sparseSet m a v, e.1 < N := fun e he => by
  rcases mem_sparseSet he with he | he
  · exact h e he
  · rw [he.1]; exact ha

/-! ### Bytes -/

/-- Reading a byte after writing bytes. -/
theorem sparseGet_writeBytes (m : Memory) (a b : Nat) (bs : List Byte) :
    sparseGet (writeBytes m a bs) b =
      if h : a ≤ b ∧ b - a < bs.length then bs[b - a] else sparseGet m b := by
  induction bs generalizing m a with
  | nil => simp [writeBytes]
  | cons x xs ih =>
    simp only [writeBytes, ih, sparseGet_sparseSet, List.length_cons]
    by_cases hb : b = a
    · subst hb; simp
    · by_cases h1 : a + 1 ≤ b
      · have e1 : b - a = (b - (a + 1)) + 1 := by omega
        by_cases h2 : b - (a + 1) < xs.length
        · rw [dif_pos ⟨h1, h2⟩, dif_pos ⟨by omega, by omega⟩]
          simp only [e1, List.getElem_cons_succ]
        · rw [dif_neg (by omega), dif_neg (by omega), if_neg hb]
      · rw [dif_neg (by omega), dif_neg (by omega), if_neg hb]

theorem writeBytes_wf {m : Memory} (h : Memory.wf m) (a : Nat) (bs : List Byte) : Memory.wf (writeBytes m a bs) := by
  induction bs generalizing m a with
  | nil => exact h
  | cons x xs ih => exact ih (sparseSet_wf h a x) (a + 1)

theorem writeBytes_lt {m : Memory} {N a : Nat} {bs : List Byte} (h : ∀ e ∈ m, e.1 < N) (hb : a + bs.length ≤ N) :
    ∀ e ∈ writeBytes m a bs, e.1 < N := by
  induction bs generalizing m a with
  | nil => exact h
  | cons x xs ih =>
    simp only [List.length_cons] at hb
    exact ih (sparseSet_lt h (by omega) x) (by omega)

/-- The memory of the state after reset is canonical. -/
theorem reset_mem_wf : Memory.wf State.reset.mem := by decide

/-! ### Registers -/

@[simp] theorem readReg_zero (s : State) : readReg 0#5 s = 0#32 := rfl

theorem readReg_of_ne {r : RegIdx} (h : r ≠ 0#5) (s : State) : readReg r s = s.regs[r.toNat]'r.isLt := if_neg h

/-- Reading depends on the register file alone. -/
theorem readReg_congr {s t : State} (h : t.regs = s.regs) (r : RegIdx) : readReg r t = readReg r s := by
  simp only [readReg, h]

theorem readReg_writeReg (rd r : RegIdx) (v : Word) (s : State) :
    readReg r (writeReg rd v s) = if r = 0#5 then 0#32 else if r = rd then v else readReg r s := by
  by_cases h0 : r = 0#5
  · simp [readReg, h0]
  · by_cases hd : rd = 0#5
    · subst hd
      simp [readReg, writeReg, h0]
    · by_cases hr : r = rd
      · subst hr
        simp [readReg, writeReg, h0]
      · have : rd.toNat ≠ r.toNat := fun e => hr (BitVec.eq_of_toNat_eq e.symm)
        simp [readReg, writeReg, h0, hd, hr, this]

/-- Forcing slot 0 changes no register a program reads. -/
@[simp] theorem readReg_retire (n : Word) (r : RegIdx) (s : State) : readReg r (retire n s) = readReg r s := by
  by_cases h0 : r = 0#5
  · simp [readReg, h0]
  · have : (0 : Nat) ≠ r.toNat := fun e => h0 (BitVec.eq_of_toNat_eq e.symm)
    simp [readReg, h0, this]

@[simp] theorem retire_regs_zero (n : Word) (s : State) : (retire n s).regs[0] = 0#32 := by
  simp

/-! ### Reading a byte of RAM -/

theorem memByte_congr {s t : State} (h : t.mem = s.mem) (a : Nat) : memByte t a = memByte s a := by
  simp only [memByte, h]

theorem memByte_writeRam (s : State) (a b : Nat) (bs : List Byte) :
    memByte (writeRam a bs s) b = if h : a ≤ b ∧ b - a < bs.length then bs[b - a] else memByte s b := by
  simp only [memByte, writeRam_mem, sparseGet_writeBytes]

/-- What two byte ranges that do not meet look like. -/
theorem rangesMeet_eq_false (a n r m : Nat) :
    rangesMeet a n r m = false ↔ n = 0 ∨ m = 0 ∨ r + m ≤ a ∨ a + n ≤ r := by
  simp [rangesMeet]
  omega

end Sys2Proof.Machine
end

