-- ==== Sys2Proof/Laws/Encoding.lean ====
section
/-! SUPPORT. The fields of an encoded word or halfword: each field function of the decoder, of each layout of the encoder. -/

namespace Sys2Proof

/-! ### Slices of a concatenation -/

theorem extract_left {a c : Nat} (x : BitVec a) (z : BitVec c) (s b : Nat) (h : c ≤ s) :
    (x ++ z).extractLsb' s b = x.extractLsb' (s - c) b := by
  apply BitVec.eq_of_getLsbD_eq
  intro i hi
  have h1 : ¬ s + i < c := by omega
  have h2 : s + i - c = s - c + i := by omega
  simp [BitVec.getLsbD_append, h1, h2, hi]

theorem extract_right {a c : Nat} (x : BitVec a) (z : BitVec c) (s b : Nat) (h : s + b ≤ c) :
    (x ++ z).extractLsb' s b = z.extractLsb' s b := by
  apply BitVec.eq_of_getLsbD_eq
  intro i hi
  have h1 : s + i < c := by omega
  simp [BitVec.getLsbD_append, h1, hi]

theorem extract_all {a : Nat} (x : BitVec a) : x.extractLsb' 0 a = x := by
  apply BitVec.eq_of_getLsbD_eq
  intro i hi
  simp [hi]

theorem extract_low {a c : Nat} (x : BitVec a) (z : BitVec c) : (x ++ z).extractLsb' 0 c = z :=
  (extract_right x z 0 c (by omega)).trans (extract_all z)

theorem extract_high {a c : Nat} (x : BitVec a) (z : BitVec c) : (x ++ z).extractLsb' c a = x :=
  (extract_left x z c a (by omega)).trans (by rw [Nat.sub_self]; exact extract_all x)

/-! ### The R layout -/

section
variable (f7 : BitVec 7) (rs2 rs1 : RegIdx) (f3 : BitVec 3) (rd : RegIdx) (op : BitVec 7)

@[simp] theorem opcodeF_encR : opcodeF (encR f7 rs2 rs1 f3 rd op) = op :=
  extract_low (f7 ++ rs2 ++ rs1 ++ f3 ++ rd) op
@[simp] theorem rdF_encR : rdF (encR f7 rs2 rs1 f3 rd op) = rd :=
  (extract_left (f7 ++ rs2 ++ rs1 ++ f3 ++ rd) op 7 5 (by omega)).trans (extract_low (f7 ++ rs2 ++ rs1 ++ f3) rd)
@[simp] theorem funct3F_encR : funct3F (encR f7 rs2 rs1 f3 rd op) = f3 :=
  (extract_left (f7 ++ rs2 ++ rs1 ++ f3 ++ rd) op 12 3 (by omega)).trans
    ((extract_left (f7 ++ rs2 ++ rs1 ++ f3) rd 5 3 (by omega)).trans (extract_low (f7 ++ rs2 ++ rs1) f3))
@[simp] theorem rs1F_encR : rs1F (encR f7 rs2 rs1 f3 rd op) = rs1 :=
  (extract_left (f7 ++ rs2 ++ rs1 ++ f3 ++ rd) op 15 5 (by omega)).trans
    ((extract_left (f7 ++ rs2 ++ rs1 ++ f3) rd 8 5 (by omega)).trans
      ((extract_left (f7 ++ rs2 ++ rs1) f3 3 5 (by omega)).trans (extract_low (f7 ++ rs2) rs1)))
/-- The slices of the top twelve bits. -/
theorem top_encR (s b : Nat) (h : 20 ≤ s) :
    (encR f7 rs2 rs1 f3 rd op).extractLsb' s b = (f7 ++ rs2).extractLsb' (s - 20) b :=
  (extract_left (f7 ++ rs2 ++ rs1 ++ f3 ++ rd) op s b (by omega)).trans
    ((extract_left (f7 ++ rs2 ++ rs1 ++ f3) rd (s - 7) b (by omega)).trans
      ((extract_left (f7 ++ rs2 ++ rs1) f3 (s - 7 - 5) b (by omega)).trans
        ((extract_left (f7 ++ rs2) rs1 (s - 7 - 5 - 3) b (by omega)).trans
          (by rw [show s - 7 - 5 - 3 - 5 = s - 20 by omega]))))
@[simp] theorem rs2F_encR : rs2F (encR f7 rs2 rs1 f3 rd op) = rs2 :=
  (top_encR f7 rs2 rs1 f3 rd op 20 5 (by omega)).trans (extract_low f7 rs2)
@[simp] theorem funct7F_encR : funct7F (encR f7 rs2 rs1 f3 rd op) = f7 :=
  (top_encR f7 rs2 rs1 f3 rd op 25 7 (by omega)).trans (extract_high f7 rs2)
/-- The slices of `funct7`. -/
theorem funct7_slice_encR (s b : Nat) (h : 25 ≤ s) :
    (encR f7 rs2 rs1 f3 rd op).extractLsb' s b = f7.extractLsb' (s - 25) b :=
  (top_encR f7 rs2 rs1 f3 rd op s b (by omega)).trans
    ((extract_left f7 rs2 (s - 20) b (by omega)).trans (by rw [show s - 20 - 5 = s - 25 by omega]))
/-- The slices of `rd`. -/
theorem rd_slice_encR (s b : Nat) (h : 7 ≤ s) (hb : s + b ≤ 12) :
    (encR f7 rs2 rs1 f3 rd op).extractLsb' s b = rd.extractLsb' (s - 7) b :=
  (extract_left (f7 ++ rs2 ++ rs1 ++ f3 ++ rd) op s b (by omega)).trans
    (extract_right (f7 ++ rs2 ++ rs1 ++ f3) rd (s - 7) b (by omega))

end

/-! ### The I layout -/

section
variable (imm : BitVec 12) (rs1 : RegIdx) (f3 : BitVec 3) (rd : RegIdx) (op : BitVec 7)

@[simp] theorem opcodeF_encI : opcodeF (encI imm rs1 f3 rd op) = op := extract_low (imm ++ rs1 ++ f3 ++ rd) op
@[simp] theorem rdF_encI : rdF (encI imm rs1 f3 rd op) = rd :=
  (extract_left (imm ++ rs1 ++ f3 ++ rd) op 7 5 (by omega)).trans (extract_low (imm ++ rs1 ++ f3) rd)
@[simp] theorem funct3F_encI : funct3F (encI imm rs1 f3 rd op) = f3 :=
  (extract_left (imm ++ rs1 ++ f3 ++ rd) op 12 3 (by omega)).trans
    ((extract_left (imm ++ rs1 ++ f3) rd 5 3 (by omega)).trans (extract_low (imm ++ rs1) f3))
@[simp] theorem rs1F_encI : rs1F (encI imm rs1 f3 rd op) = rs1 :=
  (extract_left (imm ++ rs1 ++ f3 ++ rd) op 15 5 (by omega)).trans
    ((extract_left (imm ++ rs1 ++ f3) rd 8 5 (by omega)).trans
      ((extract_left (imm ++ rs1) f3 3 5 (by omega)).trans (extract_low imm rs1)))
/-- The slices of the immediate. -/
theorem imm_slice_encI (s b : Nat) (h : 20 ≤ s) :
    (encI imm rs1 f3 rd op).extractLsb' s b = imm.extractLsb' (s - 20) b :=
  (extract_left (imm ++ rs1 ++ f3 ++ rd) op s b (by omega)).trans
    ((extract_left (imm ++ rs1 ++ f3) rd (s - 7) b (by omega)).trans
      ((extract_left (imm ++ rs1) f3 (s - 7 - 5) b (by omega)).trans
        ((extract_left imm rs1 (s - 7 - 5 - 3) b (by omega)).trans
          (by rw [show s - 7 - 5 - 3 - 5 = s - 20 by omega]))))
@[simp] theorem immI_encI : immI (encI imm rs1 f3 rd op) = imm :=
  (imm_slice_encI imm rs1 f3 rd op 20 12 (by omega)).trans (extract_all imm)

end

/-- The fields of FENCE (R370). -/
theorem fence_fields (fm pred succ : BitVec 4) (rs1 : RegIdx) (f3 : BitVec 3) (rd : RegIdx) (op : BitVec 7) :
    fmF (encI (fm ++ pred ++ succ) rs1 f3 rd op) = fm ∧ predF (encI (fm ++ pred ++ succ) rs1 f3 rd op) = pred ∧
      succF (encI (fm ++ pred ++ succ) rs1 f3 rd op) = succ :=
  ⟨(imm_slice_encI (fm ++ pred ++ succ) rs1 f3 rd op 28 4 (by omega)).trans
      ((extract_left (fm ++ pred) succ 8 4 (by omega)).trans (extract_high fm pred)),
    (imm_slice_encI (fm ++ pred ++ succ) rs1 f3 rd op 24 4 (by omega)).trans
      ((extract_left (fm ++ pred) succ 4 4 (by omega)).trans (extract_low fm pred)),
    (imm_slice_encI (fm ++ pred ++ succ) rs1 f3 rd op 20 4 (by omega)).trans (extract_low (fm ++ pred) succ)⟩

/-! ### The S, B, U, J and AMO layouts -/

/-- The S-immediate from its two pieces. -/
@[simp] theorem immS_encR (hi : BitVec 7) (rs2 rs1 : RegIdx) (f3 : BitVec 3) (lo : BitVec 5) (op : BitVec 7) :
    immS (encR hi rs2 rs1 f3 lo op) = hi ++ lo :=
  congrArg₂ (fun (x : BitVec 7) (y : BitVec 5) => x ++ y)
    (funct7F_encR hi rs2 rs1 f3 lo op) (rdF_encR hi rs2 rs1 f3 lo op)

/-- The B-immediate from its four pieces. -/
@[simp] theorem immB_encR (b12 : BitVec 1) (b10 : BitVec 6) (rs2 rs1 : RegIdx) (f3 : BitVec 3) (b4 : BitVec 4)
    (b11 : BitVec 1) (op : BitVec 7) :
    immB (encR (b12 ++ b10) rs2 rs1 f3 (b4 ++ b11) op) = b12 ++ b11 ++ b10 ++ b4 ++ 0#1 := by
  have h12 : (encR (b12 ++ b10) rs2 rs1 f3 (b4 ++ b11) op).extractLsb' 31 1 = b12 :=
    (funct7_slice_encR (b12 ++ b10) rs2 rs1 f3 (b4 ++ b11) op 31 1 (by omega)).trans (extract_high b12 b10)
  have h10 : (encR (b12 ++ b10) rs2 rs1 f3 (b4 ++ b11) op).extractLsb' 25 6 = b10 :=
    (funct7_slice_encR (b12 ++ b10) rs2 rs1 f3 (b4 ++ b11) op 25 6 (by omega)).trans (extract_low b12 b10)
  have h4 : (encR (b12 ++ b10) rs2 rs1 f3 (b4 ++ b11) op).extractLsb' 8 4 = b4 :=
    (rd_slice_encR (b12 ++ b10) rs2 rs1 f3 (b4 ++ b11) op 8 4 (by omega) (by omega)).trans (extract_high b4 b11)
  have h11 : (encR (b12 ++ b10) rs2 rs1 f3 (b4 ++ b11) op).extractLsb' 7 1 = b11 :=
    (rd_slice_encR (b12 ++ b10) rs2 rs1 f3 (b4 ++ b11) op 7 1 (by omega) (by omega)).trans (extract_low b4 b11)
  unfold immB
  rw [h12, h10, h4, h11]

section
variable (imm : BitVec 20) (rd : RegIdx) (op : BitVec 7)

@[simp] theorem opcodeF_encU : opcodeF (encU imm rd op) = op := extract_low (imm ++ rd) op
@[simp] theorem rdF_encU : rdF (encU imm rd op) = rd :=
  (extract_left (imm ++ rd) op 7 5 (by omega)).trans (extract_low imm rd)
/-- The slices of the immediate. -/
theorem imm_slice_encU (s b : Nat) (h : 12 ≤ s) :
    (encU imm rd op).extractLsb' s b = imm.extractLsb' (s - 12) b :=
  (extract_left (imm ++ rd) op s b (by omega)).trans
    ((extract_left imm rd (s - 7) b (by omega)).trans (by rw [show s - 7 - 5 = s - 12 by omega]))
@[simp] theorem immU_encU : immU (encU imm rd op) = imm :=
  (imm_slice_encU imm rd op 12 20 (by omega)).trans (extract_all imm)

end

/-- The J-immediate from its four pieces. -/
@[simp] theorem immJ_encU (b20 : BitVec 1) (b10 : BitVec 10) (b11 : BitVec 1) (b19 : BitVec 8) (rd : RegIdx)
    (op : BitVec 7) :
    immJ (encU (b20 ++ b10 ++ b11 ++ b19) rd op) = b20 ++ b19 ++ b11 ++ b10 ++ 0#1 := by
  have h20 : (encU (b20 ++ b10 ++ b11 ++ b19) rd op).extractLsb' 31 1 = b20 :=
    (imm_slice_encU (b20 ++ b10 ++ b11 ++ b19) rd op 31 1 (by omega)).trans
      ((extract_left (b20 ++ b10 ++ b11) b19 19 1 (by omega)).trans
        ((extract_left (b20 ++ b10) b11 11 1 (by omega)).trans (extract_high b20 b10)))
  have h19 : (encU (b20 ++ b10 ++ b11 ++ b19) rd op).extractLsb' 12 8 = b19 :=
    (imm_slice_encU (b20 ++ b10 ++ b11 ++ b19) rd op 12 8 (by omega)).trans (extract_low (b20 ++ b10 ++ b11) b19)
  have h11 : (encU (b20 ++ b10 ++ b11 ++ b19) rd op).extractLsb' 20 1 = b11 :=
    (imm_slice_encU (b20 ++ b10 ++ b11 ++ b19) rd op 20 1 (by omega)).trans
      ((extract_left (b20 ++ b10 ++ b11) b19 8 1 (by omega)).trans (extract_low (b20 ++ b10) b11))
  have h10 : (encU (b20 ++ b10 ++ b11 ++ b19) rd op).extractLsb' 21 10 = b10 :=
    (imm_slice_encU (b20 ++ b10 ++ b11 ++ b19) rd op 21 10 (by omega)).trans
      ((extract_left (b20 ++ b10 ++ b11) b19 9 10 (by omega)).trans
        ((extract_left (b20 ++ b10) b11 1 10 (by omega)).trans (extract_low b20 b10)))
  unfold immJ
  rw [h20, h19, h11, h10]

section
variable (f5 : BitVec 5) (aq rl : Bool) (rs2 rs1 rd : RegIdx)

@[simp] theorem opcodeF_encA : opcodeF (encA f5 aq rl rs2 rs1 rd) = 0x2F#7 := opcodeF_encR _ _ _ _ _ _
@[simp] theorem rdF_encA : rdF (encA f5 aq rl rs2 rs1 rd) = rd := rdF_encR _ _ _ _ _ _
@[simp] theorem funct3F_encA : funct3F (encA f5 aq rl rs2 rs1 rd) = 2#3 := funct3F_encR _ _ _ _ _ _
@[simp] theorem rs1F_encA : rs1F (encA f5 aq rl rs2 rs1 rd) = rs1 := rs1F_encR _ _ _ _ _ _
@[simp] theorem rs2F_encA : rs2F (encA f5 aq rl rs2 rs1 rd) = rs2 := rs2F_encR _ _ _ _ _ _
@[simp] theorem funct5F_encA : funct5F (encA f5 aq rl rs2 rs1 rd) = f5 :=
  (funct7_slice_encR (f5 ++ BitVec.ofBool aq ++ BitVec.ofBool rl) rs2 rs1 2#3 rd 0x2F#7 27 5 (by omega)).trans
    ((extract_left (f5 ++ BitVec.ofBool aq) (BitVec.ofBool rl) 2 5 (by omega)).trans
      (extract_high f5 (BitVec.ofBool aq)))
/-- A bit of a word is a slice of width one. -/
theorem getLsbD_of_slice {n : Nat} {w : BitVec n} {k : Nat} {b : Bool} (h : w.extractLsb' k 1 = BitVec.ofBool b) :
    w.getLsbD k = b := by
  have := congrArg (fun v => v.getLsbD 0) h
  simpa using this
@[simp] theorem aqF_encA : aqF (encA f5 aq rl rs2 rs1 rd) = aq :=
  getLsbD_of_slice
    ((funct7_slice_encR (f5 ++ BitVec.ofBool aq ++ BitVec.ofBool rl) rs2 rs1 2#3 rd 0x2F#7 26 1 (by omega)).trans
      ((extract_left (f5 ++ BitVec.ofBool aq) (BitVec.ofBool rl) 1 1 (by omega)).trans
        (extract_low f5 (BitVec.ofBool aq))))
@[simp] theorem rlF_encA : rlF (encA f5 aq rl rs2 rs1 rd) = rl :=
  getLsbD_of_slice
    ((funct7_slice_encR (f5 ++ BitVec.ofBool aq ++ BitVec.ofBool rl) rs2 rs1 2#3 rd 0x2F#7 25 1 (by omega)).trans
      (extract_low (f5 ++ BitVec.ofBool aq) (BitVec.ofBool rl)))

end

/-! ### The CI layout -/

section
variable (f3 : BitVec 3) (b12 : BitVec 1) (r lo : BitVec 5) (q : BitVec 2)

@[simp] theorem quadF_encCI : quadF (encCI f3 b12 r lo q) = q := extract_low (f3 ++ b12 ++ r ++ lo) q
@[simp] theorem cRs2F_encCI : cRs2F (encCI f3 b12 r lo q) = lo :=
  (extract_left (f3 ++ b12 ++ r ++ lo) q 2 5 (by omega)).trans (extract_low (f3 ++ b12 ++ r) lo)
@[simp] theorem cRdF_encCI : cRdF (encCI f3 b12 r lo q) = r :=
  (extract_left (f3 ++ b12 ++ r ++ lo) q 7 5 (by omega)).trans
    ((extract_left (f3 ++ b12 ++ r) lo 5 5 (by omega)).trans (extract_low (f3 ++ b12) r))
@[simp] theorem cBit12F_encCI : cBit12F (encCI f3 b12 r lo q) = b12 :=
  (extract_left (f3 ++ b12 ++ r ++ lo) q 12 1 (by omega)).trans
    ((extract_left (f3 ++ b12 ++ r) lo 10 1 (by omega)).trans
      ((extract_left (f3 ++ b12) r 5 1 (by omega)).trans (extract_low f3 b12)))
@[simp] theorem cFunct3F_encCI : cFunct3F (encCI f3 b12 r lo q) = f3 :=
  (extract_left (f3 ++ b12 ++ r ++ lo) q 13 3 (by omega)).trans
    ((extract_left (f3 ++ b12 ++ r) lo 11 3 (by omega)).trans
      ((extract_left (f3 ++ b12) r 6 3 (by omega)).trans (extract_high f3 b12)))
@[simp] theorem ciImm_encCI : ciImm (encCI f3 b12 r lo q) = b12 ++ lo :=
  congrArg₂ (fun (x : BitVec 1) (y : BitVec 5) => x ++ y)
    (cBit12F_encCI f3 b12 r lo q) (cRs2F_encCI f3 b12 r lo q)
/-- The slices of `h[6:2]`. -/
theorem lo_slice_encCI (s b : Nat) (h : 2 ≤ s) (hb : s + b ≤ 7) :
    (encCI f3 b12 r lo q).extractLsb' s b = lo.extractLsb' (s - 2) b :=
  (extract_left (f3 ++ b12 ++ r ++ lo) q s b (by omega)).trans
    (extract_right (f3 ++ b12 ++ r) lo (s - 2) b (by omega))
/-- The slices of `h[11:7]`. -/
theorem r_slice_encCI (s b : Nat) (h : 7 ≤ s) (hb : s + b ≤ 12) :
    (encCI f3 b12 r lo q).extractLsb' s b = r.extractLsb' (s - 7) b :=
  (extract_left (f3 ++ b12 ++ r ++ lo) q s b (by omega)).trans
    ((extract_left (f3 ++ b12 ++ r) lo (s - 2) b (by omega)).trans
      ((extract_right (f3 ++ b12) r (s - 2 - 5) b (by omega)).trans
        (by rw [show s - 2 - 5 = s - 7 by omega])))

end

/-- `ci_addi16sp` from its pieces. -/
@[simp] theorem ciAddi16sp_encCI (f3 : BitVec 3) (b9 b4 b6 : BitVec 1) (b7 : BitVec 2) (b5 : BitVec 1) (r : BitVec 5)
    (q : BitVec 2) :
    ciAddi16sp (encCI f3 b9 r (b4 ++ b6 ++ b7 ++ b5) q) = b9 ++ b7 ++ b6 ++ b5 ++ b4 ++ 0#4 := by
  have h9 : (encCI f3 b9 r (b4 ++ b6 ++ b7 ++ b5) q).extractLsb' 12 1 = b9 := cBit12F_encCI _ _ _ _ _
  have h7 : (encCI f3 b9 r (b4 ++ b6 ++ b7 ++ b5) q).extractLsb' 3 2 = b7 :=
    (lo_slice_encCI f3 b9 r (b4 ++ b6 ++ b7 ++ b5) q 3 2 (by omega) (by omega)).trans
      ((extract_left (b4 ++ b6 ++ b7) b5 1 2 (by omega)).trans (extract_low (b4 ++ b6) b7))
  have h6 : (encCI f3 b9 r (b4 ++ b6 ++ b7 ++ b5) q).extractLsb' 5 1 = b6 :=
    (lo_slice_encCI f3 b9 r (b4 ++ b6 ++ b7 ++ b5) q 5 1 (by omega) (by omega)).trans
      ((extract_left (b4 ++ b6 ++ b7) b5 3 1 (by omega)).trans
        ((extract_left (b4 ++ b6) b7 2 1 (by omega)).trans (extract_low b4 b6)))
  have h5 : (encCI f3 b9 r (b4 ++ b6 ++ b7 ++ b5) q).extractLsb' 2 1 = b5 :=
    (lo_slice_encCI f3 b9 r (b4 ++ b6 ++ b7 ++ b5) q 2 1 (by omega) (by omega)).trans
      (extract_low (b4 ++ b6 ++ b7) b5)
  have h4 : (encCI f3 b9 r (b4 ++ b6 ++ b7 ++ b5) q).extractLsb' 6 1 = b4 :=
    (lo_slice_encCI f3 b9 r (b4 ++ b6 ++ b7 ++ b5) q 6 1 (by omega) (by omega)).trans
      ((extract_left (b4 ++ b6 ++ b7) b5 4 1 (by omega)).trans
        ((extract_left (b4 ++ b6) b7 3 1 (by omega)).trans (extract_high b4 b6)))
  unfold ciAddi16sp
  rw [h9, h7, h6, h5, h4]

/-- `ci_lwsp` from its pieces. -/
@[simp] theorem ciLwsp_encCI (f3 : BitVec 3) (u5 : BitVec 1) (r : BitVec 5) (u2 : BitVec 3) (u6 : BitVec 2)
    (q : BitVec 2) : ciLwsp (encCI f3 u5 r (u2 ++ u6) q) = u6 ++ u5 ++ u2 ++ 0#2 := by
  have h6 : (encCI f3 u5 r (u2 ++ u6) q).extractLsb' 2 2 = u6 :=
    (lo_slice_encCI f3 u5 r (u2 ++ u6) q 2 2 (by omega) (by omega)).trans (extract_low u2 u6)
  have h5 : (encCI f3 u5 r (u2 ++ u6) q).extractLsb' 12 1 = u5 := cBit12F_encCI _ _ _ _ _
  have h2 : (encCI f3 u5 r (u2 ++ u6) q).extractLsb' 4 3 = u2 :=
    (lo_slice_encCI f3 u5 r (u2 ++ u6) q 4 3 (by omega) (by omega)).trans (extract_high u2 u6)
  unfold ciLwsp
  rw [h6, h5, h2]

/-- The fields of the CB shifts and C.ANDI, which have a CI layout whose register is `funct2 ++ rd'`. -/
theorem cFunct2F_encCI (f3 : BitVec 3) (b12 : BitVec 1) (f2 : BitVec 2) (rd : CReg) (lo : BitVec 5) (q : BitVec 2) :
    cFunct2F (encCI f3 b12 (f2 ++ rd) lo q) = f2 ∧ cRs1pF (encCI f3 b12 (f2 ++ rd) lo q) = rd :=
  ⟨(r_slice_encCI f3 b12 (f2 ++ rd) lo q 10 2 (by omega) (by omega)).trans (extract_high f2 rd),
    (r_slice_encCI f3 b12 (f2 ++ rd) lo q 7 3 (by omega) (by omega)).trans (extract_low f2 rd)⟩

/-! ### The CL layout -/

section
variable (f3 hi : BitVec 3) (r1 : CReg) (mid : BitVec 2) (r2 : CReg) (q : BitVec 2)

@[simp] theorem quadF_encCL : quadF (encCL f3 hi r1 mid r2 q) = q := extract_low (f3 ++ hi ++ r1 ++ mid ++ r2) q
@[simp] theorem cRs2pF_encCL : cRs2pF (encCL f3 hi r1 mid r2 q) = r2 :=
  (extract_left (f3 ++ hi ++ r1 ++ mid ++ r2) q 2 3 (by omega)).trans (extract_low (f3 ++ hi ++ r1 ++ mid) r2)
@[simp] theorem cFunct2aF_encCL : cFunct2aF (encCL f3 hi r1 mid r2 q) = mid :=
  (extract_left (f3 ++ hi ++ r1 ++ mid ++ r2) q 5 2 (by omega)).trans
    ((extract_left (f3 ++ hi ++ r1 ++ mid) r2 3 2 (by omega)).trans (extract_low (f3 ++ hi ++ r1) mid))
@[simp] theorem cRs1pF_encCL : cRs1pF (encCL f3 hi r1 mid r2 q) = r1 :=
  (extract_left (f3 ++ hi ++ r1 ++ mid ++ r2) q 7 3 (by omega)).trans
    ((extract_left (f3 ++ hi ++ r1 ++ mid) r2 5 3 (by omega)).trans
      ((extract_left (f3 ++ hi ++ r1) mid 2 3 (by omega)).trans (extract_low (f3 ++ hi) r1)))
/-- The slices of `h[15:10]`. -/
theorem hi_slice_encCL (s b : Nat) (h : 10 ≤ s) :
    (encCL f3 hi r1 mid r2 q).extractLsb' s b = (f3 ++ hi).extractLsb' (s - 10) b :=
  (extract_left (f3 ++ hi ++ r1 ++ mid ++ r2) q s b (by omega)).trans
    ((extract_left (f3 ++ hi ++ r1 ++ mid) r2 (s - 2) b (by omega)).trans
      ((extract_left (f3 ++ hi ++ r1) mid (s - 2 - 3) b (by omega)).trans
        ((extract_left (f3 ++ hi) r1 (s - 2 - 3 - 2) b (by omega)).trans
          (by rw [show s - 2 - 3 - 2 - 3 = s - 10 by omega]))))
@[simp] theorem cFunct3F_encCL : cFunct3F (encCL f3 hi r1 mid r2 q) = f3 :=
  (hi_slice_encCL f3 hi r1 mid r2 q 13 3 (by omega)).trans (extract_high f3 hi)
/-- `h[12:10]` -/
theorem hi_encCL : (encCL f3 hi r1 mid r2 q).extractLsb' 10 3 = hi :=
  (hi_slice_encCL f3 hi r1 mid r2 q 10 3 (by omega)).trans (extract_low f3 hi)
/-- The slices of `h[12:10]`. -/
theorem hi3_slice_encCL (s b : Nat) (h : 10 ≤ s) (hb : s + b ≤ 13) :
    (encCL f3 hi r1 mid r2 q).extractLsb' s b = hi.extractLsb' (s - 10) b :=
  (hi_slice_encCL f3 hi r1 mid r2 q s b h).trans (extract_right f3 hi (s - 10) b (by omega))
/-- The slices of `h[6:5]`. -/
theorem mid_slice_encCL (s b : Nat) (h : 5 ≤ s) (hb : s + b ≤ 7) :
    (encCL f3 hi r1 mid r2 q).extractLsb' s b = mid.extractLsb' (s - 5) b :=
  (extract_left (f3 ++ hi ++ r1 ++ mid ++ r2) q s b (by omega)).trans
    ((extract_left (f3 ++ hi ++ r1 ++ mid) r2 (s - 2) b (by omega)).trans
      ((extract_right (f3 ++ hi ++ r1) mid (s - 2 - 3) b (by omega)).trans
        (by rw [show s - 2 - 3 = s - 5 by omega])))
/-- The slices of `h[4:2]`. -/
theorem r2_slice_encCL (s b : Nat) (h : 2 ≤ s) (hb : s + b ≤ 5) :
    (encCL f3 hi r1 mid r2 q).extractLsb' s b = r2.extractLsb' (s - 2) b :=
  (extract_left (f3 ++ hi ++ r1 ++ mid ++ r2) q s b (by omega)).trans
    (extract_right (f3 ++ hi ++ r1 ++ mid) r2 (s - 2) b (by omega))

end

/-- `cl_uimm` from its pieces. -/
@[simp] theorem clUimm_encCL (f3 u3 : BitVec 3) (r1 : CReg) (u2 u6 : BitVec 1) (r2 : CReg) (q : BitVec 2) :
    clUimm (encCL f3 u3 r1 (u2 ++ u6) r2 q) = u6 ++ u3 ++ u2 ++ 0#2 := by
  have h6 : (encCL f3 u3 r1 (u2 ++ u6) r2 q).extractLsb' 5 1 = u6 :=
    (mid_slice_encCL f3 u3 r1 (u2 ++ u6) r2 q 5 1 (by omega) (by omega)).trans (extract_low u2 u6)
  have h2 : (encCL f3 u3 r1 (u2 ++ u6) r2 q).extractLsb' 6 1 = u2 :=
    (mid_slice_encCL f3 u3 r1 (u2 ++ u6) r2 q 6 1 (by omega) (by omega)).trans (extract_high u2 u6)
  unfold clUimm
  rw [h6, hi_encCL, h2]

/-- The fields of the CA forms: `funct6` is `100 0 11`. -/
theorem ca_fields (rd : CReg) (mid : BitVec 2) (rs2 : CReg) (q : BitVec 2) :
    cFunct2F (encCL 4#3 3#3 rd mid rs2 q) = 3#2 ∧ cBit12F (encCL 4#3 3#3 rd mid rs2 q) = 0#1 :=
  ⟨(hi3_slice_encCL 4#3 3#3 rd mid rs2 q 10 2 (by omega) (by omega)).trans (by decide),
    (hi3_slice_encCL 4#3 3#3 rd mid rs2 q 12 1 (by omega) (by omega)).trans (by decide)⟩

/-- `cb_off` from its pieces. -/
@[simp] theorem cbOff_encCL (f3 : BitVec 3) (b8 : BitVec 1) (b3 : BitVec 2) (r1 : CReg) (b6 b1 : BitVec 2)
    (b5 : BitVec 1) (q : BitVec 2) :
    cbOff (encCL f3 (b8 ++ b3) r1 b6 (b1 ++ b5) q) = b8 ++ b6 ++ b5 ++ b3 ++ b1 ++ 0#1 := by
  have h8 : (encCL f3 (b8 ++ b3) r1 b6 (b1 ++ b5) q).extractLsb' 12 1 = b8 :=
    (hi3_slice_encCL f3 (b8 ++ b3) r1 b6 (b1 ++ b5) q 12 1 (by omega) (by omega)).trans (extract_high b8 b3)
  have h3 : (encCL f3 (b8 ++ b3) r1 b6 (b1 ++ b5) q).extractLsb' 10 2 = b3 :=
    (hi3_slice_encCL f3 (b8 ++ b3) r1 b6 (b1 ++ b5) q 10 2 (by omega) (by omega)).trans (extract_low b8 b3)
  have h6 : (encCL f3 (b8 ++ b3) r1 b6 (b1 ++ b5) q).extractLsb' 5 2 = b6 := cFunct2aF_encCL _ _ _ _ _ _
  have h5 : (encCL f3 (b8 ++ b3) r1 b6 (b1 ++ b5) q).extractLsb' 2 1 = b5 :=
    (r2_slice_encCL f3 (b8 ++ b3) r1 b6 (b1 ++ b5) q 2 1 (by omega) (by omega)).trans (extract_low b1 b5)
  have h1 : (encCL f3 (b8 ++ b3) r1 b6 (b1 ++ b5) q).extractLsb' 3 2 = b1 :=
    (r2_slice_encCL f3 (b8 ++ b3) r1 b6 (b1 ++ b5) q 3 2 (by omega) (by omega)).trans (extract_high b1 b5)
  unfold cbOff
  rw [h8, h6, h5, h3, h1]

/-! ### The CIW, CSS and CJ layouts -/

/-- The fields of a CIW halfword with the immediate's pieces `u4`, `u6`, `u2`, `u3`. -/
theorem ciw_fields (u4 : BitVec 2) (u6 : BitVec 4) (u2 u3 : BitVec 1) (rd : CReg) :
    let h : Half := 0#3 ++ u4 ++ u6 ++ u2 ++ u3 ++ rd ++ 0#2
    quadF h = 0#2 ∧ cFunct3F h = 0#3 ∧ cRs2pF h = rd ∧ ciwNzuimm h = u6 ++ u4 ++ u3 ++ u2 ++ 0#2 := by
  intro h
  have t (k b : Nat) (hk : 2 ≤ k) :
      h.extractLsb' k b = (0#3 ++ u4 ++ u6 ++ u2 ++ u3 ++ rd).extractLsb' (k - 2) b :=
    extract_left (0#3 ++ u4 ++ u6 ++ u2 ++ u3 ++ rd) 0#2 k b hk
  have t5 (k b : Nat) (hk : 5 ≤ k) : h.extractLsb' k b = (0#3 ++ u4 ++ u6 ++ u2 ++ u3).extractLsb' (k - 2 - 3) b :=
    (t k b (by omega)).trans (extract_left (0#3 ++ u4 ++ u6 ++ u2 ++ u3) rd (k - 2) b (by omega))
  have h3 : h.extractLsb' 5 1 = u3 := (t5 5 1 (by omega)).trans (extract_low (0#3 ++ u4 ++ u6 ++ u2) u3)
  have h2 : h.extractLsb' 6 1 = u2 :=
    (t5 6 1 (by omega)).trans ((extract_left (0#3 ++ u4 ++ u6 ++ u2) u3 1 1 (by omega)).trans
      (extract_low (0#3 ++ u4 ++ u6) u2))
  have t7 (k b : Nat) (hk : 7 ≤ k) : h.extractLsb' k b = (0#3 ++ u4 ++ u6).extractLsb' (k - 2 - 3 - 1 - 1) b :=
    (t5 k b (by omega)).trans ((extract_left (0#3 ++ u4 ++ u6 ++ u2) u3 (k - 2 - 3) b (by omega)).trans
      (extract_left (0#3 ++ u4 ++ u6) u2 (k - 2 - 3 - 1) b (by omega)))
  have h6 : h.extractLsb' 7 4 = u6 := (t7 7 4 (by omega)).trans (extract_low (0#3 ++ u4) u6)
  have h4 : h.extractLsb' 11 2 = u4 :=
    (t7 11 2 (by omega)).trans ((extract_left (0#3 ++ u4) u6 4 2 (by omega)).trans (extract_low 0#3 u4))
  refine ⟨extract_low (0#3 ++ u4 ++ u6 ++ u2 ++ u3 ++ rd) 0#2, ?_,
    (t 2 3 (by omega)).trans (extract_low (0#3 ++ u4 ++ u6 ++ u2 ++ u3) rd), ?_⟩
  · exact (t7 13 3 (by omega)).trans
      ((extract_left (0#3 ++ u4) u6 6 3 (by omega)).trans (extract_high 0#3 u4))
  · unfold ciwNzuimm
    rw [h6, h4, h3, h2]

/-- The fields of a CSS halfword with the immediate's pieces `u2`, `u6`. -/
theorem css_fields (f3 : BitVec 3) (u2 : BitVec 4) (u6 : BitVec 2) (rs2 : RegIdx) (q : BitVec 2) :
    let h : Half := f3 ++ u2 ++ u6 ++ rs2 ++ q
    quadF h = q ∧ cFunct3F h = f3 ∧ cRs2F h = rs2 ∧ cssSwsp h = u6 ++ u2 ++ 0#2 := by
  intro h
  have t (k b : Nat) (hk : 7 ≤ k) : h.extractLsb' k b = (f3 ++ u2 ++ u6).extractLsb' (k - 2 - 5) b :=
    (extract_left (f3 ++ u2 ++ u6 ++ rs2) q k b (by omega)).trans
      (extract_left (f3 ++ u2 ++ u6) rs2 (k - 2) b (by omega))
  have h6 : h.extractLsb' 7 2 = u6 := (t 7 2 (by omega)).trans (extract_low (f3 ++ u2) u6)
  have h2 : h.extractLsb' 9 4 = u2 :=
    (t 9 4 (by omega)).trans ((extract_left (f3 ++ u2) u6 2 4 (by omega)).trans (extract_low f3 u2))
  refine ⟨extract_low (f3 ++ u2 ++ u6 ++ rs2) q, ?_,
    (extract_left (f3 ++ u2 ++ u6 ++ rs2) q 2 5 (by omega)).trans (extract_low (f3 ++ u2 ++ u6) rs2), ?_⟩
  · exact (t 13 3 (by omega)).trans
      ((extract_left (f3 ++ u2) u6 6 3 (by omega)).trans (extract_high f3 u2))
  · unfold cssSwsp
    rw [h6, h2]

/-- The fields of a CJ halfword with the offset's pieces. -/
theorem cj_fields (f3 : BitVec 3) (b11 b4 : BitVec 1) (b8 : BitVec 2) (b10 b6 b7 : BitVec 1) (b1 : BitVec 3)
    (b5 : BitVec 1) (q : BitVec 2) :
    let h : Half := f3 ++ b11 ++ b4 ++ b8 ++ b10 ++ b6 ++ b7 ++ b1 ++ b5 ++ q
    quadF h = q ∧ cFunct3F h = f3 ∧ cjOff h = b11 ++ b10 ++ b8 ++ b7 ++ b6 ++ b5 ++ b4 ++ b1 ++ 0#1 := by
  intro h
  have t2 (k b : Nat) (hk : 2 ≤ k) :
      h.extractLsb' k b = (f3 ++ b11 ++ b4 ++ b8 ++ b10 ++ b6 ++ b7 ++ b1 ++ b5).extractLsb' (k - 2) b :=
    extract_left (f3 ++ b11 ++ b4 ++ b8 ++ b10 ++ b6 ++ b7 ++ b1 ++ b5) q k b hk
  have t3 (k b : Nat) (hk : 3 ≤ k) :
      h.extractLsb' k b = (f3 ++ b11 ++ b4 ++ b8 ++ b10 ++ b6 ++ b7 ++ b1).extractLsb' (k - 2 - 1) b :=
    (t2 k b (by omega)).trans
      (extract_left (f3 ++ b11 ++ b4 ++ b8 ++ b10 ++ b6 ++ b7 ++ b1) b5 (k - 2) b (by omega))
  have t6 (k b : Nat) (hk : 6 ≤ k) :
      h.extractLsb' k b = (f3 ++ b11 ++ b4 ++ b8 ++ b10 ++ b6 ++ b7).extractLsb' (k - 2 - 1 - 3) b :=
    (t3 k b (by omega)).trans
      (extract_left (f3 ++ b11 ++ b4 ++ b8 ++ b10 ++ b6 ++ b7) b1 (k - 2 - 1) b (by omega))
  have t8 (k b : Nat) (hk : 8 ≤ k) :
      h.extractLsb' k b = (f3 ++ b11 ++ b4 ++ b8 ++ b10).extractLsb' (k - 2 - 1 - 3 - 1 - 1) b :=
    (t6 k b (by omega)).trans
      ((extract_left (f3 ++ b11 ++ b4 ++ b8 ++ b10 ++ b6) b7 (k - 2 - 1 - 3) b (by omega)).trans
        (extract_left (f3 ++ b11 ++ b4 ++ b8 ++ b10) b6 (k - 2 - 1 - 3 - 1) b (by omega)))
  have t9 (k b : Nat) (hk : 9 ≤ k) :
      h.extractLsb' k b = (f3 ++ b11 ++ b4 ++ b8).extractLsb' (k - 2 - 1 - 3 - 1 - 1 - 1) b :=
    (t8 k b (by omega)).trans
      (extract_left (f3 ++ b11 ++ b4 ++ b8) b10 (k - 2 - 1 - 3 - 1 - 1) b (by omega))
  have t11 (k b : Nat) (hk : 11 ≤ k) :
      h.extractLsb' k b = (f3 ++ b11 ++ b4).extractLsb' (k - 2 - 1 - 3 - 1 - 1 - 1 - 2) b :=
    (t9 k b (by omega)).trans
      (extract_left (f3 ++ b11 ++ b4) b8 (k - 2 - 1 - 3 - 1 - 1 - 1) b (by omega))
  have h5 : h.extractLsb' 2 1 = b5 :=
    (t2 2 1 (by omega)).trans (extract_low (f3 ++ b11 ++ b4 ++ b8 ++ b10 ++ b6 ++ b7 ++ b1) b5)
  have h1 : h.extractLsb' 3 3 = b1 :=
    (t3 3 3 (by omega)).trans (extract_low (f3 ++ b11 ++ b4 ++ b8 ++ b10 ++ b6 ++ b7) b1)
  have h7 : h.extractLsb' 6 1 = b7 :=
    (t6 6 1 (by omega)).trans (extract_low (f3 ++ b11 ++ b4 ++ b8 ++ b10 ++ b6) b7)
  have h6 : h.extractLsb' 7 1 = b6 :=
    (t6 7 1 (by omega)).trans ((extract_left (f3 ++ b11 ++ b4 ++ b8 ++ b10 ++ b6) b7 1 1 (by omega)).trans
      (extract_low (f3 ++ b11 ++ b4 ++ b8 ++ b10) b6))
  have h10 : h.extractLsb' 8 1 = b10 := (t8 8 1 (by omega)).trans (extract_low (f3 ++ b11 ++ b4 ++ b8) b10)
  have h8 : h.extractLsb' 9 2 = b8 := (t9 9 2 (by omega)).trans (extract_low (f3 ++ b11 ++ b4) b8)
  have h4 : h.extractLsb' 11 1 = b4 := (t11 11 1 (by omega)).trans (extract_low (f3 ++ b11) b4)
  have h11 : h.extractLsb' 12 1 = b11 :=
    (t11 12 1 (by omega)).trans ((extract_left (f3 ++ b11) b4 1 1 (by omega)).trans (extract_low f3 b11))
  refine ⟨extract_low (f3 ++ b11 ++ b4 ++ b8 ++ b10 ++ b6 ++ b7 ++ b1 ++ b5) q, ?_, ?_⟩
  · exact (t11 13 3 (by omega)).trans
      ((extract_left (f3 ++ b11) b4 2 3 (by omega)).trans (extract_high f3 b11))
  · unfold cjOff
    rw [h11, h10, h8, h7, h6, h5, h4, h1]

/-! ### Immediates put together again from their slices -/

/-- Two neighbouring slices are one. -/
theorem slice_join {k : Nat} (v : BitVec k) (s m n : Nat) :
    v.extractLsb' (s + m) n ++ v.extractLsb' s m = v.extractLsb' s (n + m) := by
  apply BitVec.eq_of_getLsbD_eq
  intro i hi
  simp only [BitVec.getLsbD_append, BitVec.getLsbD_extractLsb']
  by_cases h1 : i < m
  · have : i < n + m := by omega
    simp [h1, this]
  · have h2 : i - m < n := by omega
    have h3 : i < n + m := by omega
    have h4 : s + m + (i - m) = s + i := by omega
    simp [h1, h2, h3, h4]

theorem lowZero_eq {n : Nat} {v : BitVec n} {k : Nat} (h : lowZero v k = true) : 0#k = v.extractLsb' 0 k :=
  (eq_of_beq h).symm

theorem immS_join (v : BitVec 12) : v.extractLsb' 5 7 ++ v.extractLsb' 0 5 = v :=
  (slice_join v 0 5 7).trans (extract_all v)

theorem imm6_join (v : BitVec 6) : v.extractLsb' 5 1 ++ v.extractLsb' 0 5 = v :=
  (slice_join v 0 5 1).trans (extract_all v)

theorem immB_join {v : BitVec 13} (h : lowZero v 1 = true) :
    v.extractLsb' 12 1 ++ v.extractLsb' 11 1 ++ v.extractLsb' 5 6 ++ v.extractLsb' 1 4 ++ 0#1 = v := by
  rw [lowZero_eq h, slice_join v 11 1 1, slice_join v 5 6 (1 + 1), slice_join v 1 4 (1 + 1 + 6),
    slice_join v 0 1 (1 + 1 + 6 + 4)]
  exact extract_all v

theorem immJ_join {v : BitVec 21} (h : lowZero v 1 = true) :
    v.extractLsb' 20 1 ++ v.extractLsb' 12 8 ++ v.extractLsb' 11 1 ++ v.extractLsb' 1 10 ++ 0#1 = v := by
  rw [lowZero_eq h, slice_join v 12 8 1, slice_join v 11 1 (1 + 8), slice_join v 1 10 (1 + 8 + 1),
    slice_join v 0 1 (1 + 8 + 1 + 10)]
  exact extract_all v

theorem ciw_join {v : BitVec 10} (h : lowZero v 2 = true) :
    v.extractLsb' 6 4 ++ v.extractLsb' 4 2 ++ v.extractLsb' 3 1 ++ v.extractLsb' 2 1 ++ 0#2 = v := by
  rw [lowZero_eq h, slice_join v 4 2 4, slice_join v 3 1 (4 + 2), slice_join v 2 1 (4 + 2 + 1),
    slice_join v 0 2 (4 + 2 + 1 + 1)]
  exact extract_all v

theorem cl_join {v : BitVec 7} (h : lowZero v 2 = true) :
    v.extractLsb' 6 1 ++ v.extractLsb' 3 3 ++ v.extractLsb' 2 1 ++ 0#2 = v := by
  rw [lowZero_eq h, slice_join v 3 3 1, slice_join v 2 1 (1 + 3), slice_join v 0 2 (1 + 3 + 1)]
  exact extract_all v

theorem lwsp_join {v : BitVec 8} (h : lowZero v 2 = true) :
    v.extractLsb' 6 2 ++ v.extractLsb' 5 1 ++ v.extractLsb' 2 3 ++ 0#2 = v := by
  rw [lowZero_eq h, slice_join v 5 1 2, slice_join v 2 3 (2 + 1), slice_join v 0 2 (2 + 1 + 3)]
  exact extract_all v

theorem swsp_join {v : BitVec 8} (h : lowZero v 2 = true) :
    v.extractLsb' 6 2 ++ v.extractLsb' 2 4 ++ 0#2 = v := by
  rw [lowZero_eq h, slice_join v 2 4 2, slice_join v 0 2 (2 + 4)]
  exact extract_all v

theorem addi16sp_join {v : BitVec 10} (h : lowZero v 4 = true) :
    v.extractLsb' 9 1 ++ v.extractLsb' 7 2 ++ v.extractLsb' 6 1 ++ v.extractLsb' 5 1 ++ v.extractLsb' 4 1 ++ 0#4 =
      v := by
  rw [lowZero_eq h, slice_join v 7 2 1, slice_join v 6 1 (1 + 2), slice_join v 5 1 (1 + 2 + 1),
    slice_join v 4 1 (1 + 2 + 1 + 1), slice_join v 0 4 (1 + 2 + 1 + 1 + 1)]
  exact extract_all v

theorem cj_join {v : BitVec 12} (h : lowZero v 1 = true) :
    v.extractLsb' 11 1 ++ v.extractLsb' 10 1 ++ v.extractLsb' 8 2 ++ v.extractLsb' 7 1 ++ v.extractLsb' 6 1 ++
      v.extractLsb' 5 1 ++ v.extractLsb' 4 1 ++ v.extractLsb' 1 3 ++ 0#1 = v := by
  rw [lowZero_eq h, slice_join v 10 1 1, slice_join v 8 2 (1 + 1), slice_join v 7 1 (1 + 1 + 2),
    slice_join v 6 1 (1 + 1 + 2 + 1), slice_join v 5 1 (1 + 1 + 2 + 1 + 1), slice_join v 4 1 (1 + 1 + 2 + 1 + 1 + 1),
    slice_join v 1 3 (1 + 1 + 2 + 1 + 1 + 1 + 1), slice_join v 0 1 (1 + 1 + 2 + 1 + 1 + 1 + 1 + 3)]
  exact extract_all v

theorem cb_join {v : BitVec 9} (h : lowZero v 1 = true) :
    v.extractLsb' 8 1 ++ v.extractLsb' 6 2 ++ v.extractLsb' 5 1 ++ v.extractLsb' 3 2 ++ v.extractLsb' 1 2 ++ 0#1 =
      v := by
  rw [lowZero_eq h, slice_join v 6 2 1, slice_join v 5 1 (1 + 2), slice_join v 3 2 (1 + 2 + 1),
    slice_join v 1 2 (1 + 2 + 1 + 2), slice_join v 0 1 (1 + 2 + 1 + 2 + 2)]
  exact extract_all v

/-! ### Words put together again from their fields -/

theorem encR_fields (w : Word) : encR (funct7F w) (rs2F w) (rs1F w) (funct3F w) (rdF w) (opcodeF w) = w := by
  unfold encR funct7F rs2F rs1F funct3F rdF opcodeF
  rw [slice_join w 20 5 7, slice_join w 15 5 (7 + 5), slice_join w 12 3 (7 + 5 + 5), slice_join w 7 5 (7 + 5 + 5 + 3),
    slice_join w 0 7 (7 + 5 + 5 + 3 + 5)]
  exact extract_all w

theorem encI_fields (w : Word) : encI (immI w) (rs1F w) (funct3F w) (rdF w) (opcodeF w) = w := by
  unfold encI immI rs1F funct3F rdF opcodeF
  rw [slice_join w 15 5 12, slice_join w 12 3 (12 + 5), slice_join w 7 5 (12 + 5 + 3),
    slice_join w 0 7 (12 + 5 + 3 + 5)]
  exact extract_all w

theorem encU_fields (w : Word) : encU (immU w) (rdF w) (opcodeF w) = w := by
  unfold encU immU rdF opcodeF
  rw [slice_join w 7 5 20, slice_join w 0 7 (20 + 5)]
  exact extract_all w

/-- FENCE keeps its twelve bits as three fields. -/
theorem fence_join (w : Word) : fmF w ++ predF w ++ succF w = immI w := by
  unfold fmF predF succF immI
  rw [slice_join w 24 4 4, slice_join w 20 4 (4 + 4)]

theorem encS_fields (w : Word) : encS (immS w) (rs2F w) (rs1F w) (funct3F w) (opcodeF w) = w := by
  have h1 : (immS w).extractLsb' 5 7 = funct7F w := extract_high (w.extractLsb' 25 7) (w.extractLsb' 7 5)
  have h2 : (immS w).extractLsb' 0 5 = rdF w := extract_low (w.extractLsb' 25 7) (w.extractLsb' 7 5)
  unfold encS
  rw [h1, h2]
  exact encR_fields w

theorem encB_fields (w : Word) : encB (immB w) (rs2F w) (rs1F w) (funct3F w) (opcodeF w) = w := by
  have e (s b : Nat) (hs : 1 ≤ s) : (immB w).extractLsb' s b =
      (w.extractLsb' 31 1 ++ w.extractLsb' 7 1 ++ w.extractLsb' 25 6 ++ w.extractLsb' 8 4).extractLsb' (s - 1) b :=
    extract_left _ 0#1 s b hs
  have e5 (s b : Nat) (hs : 5 ≤ s) : (immB w).extractLsb' s b =
      (w.extractLsb' 31 1 ++ w.extractLsb' 7 1 ++ w.extractLsb' 25 6).extractLsb' (s - 1 - 4) b :=
    (e s b (by omega)).trans (extract_left _ _ _ b (by omega))
  have e11 (s b : Nat) (hs : 11 ≤ s) : (immB w).extractLsb' s b =
      (w.extractLsb' 31 1 ++ w.extractLsb' 7 1).extractLsb' (s - 1 - 4 - 6) b :=
    (e5 s b (by omega)).trans (extract_left _ _ _ b (by omega))
  have h1 : (immB w).extractLsb' 1 4 = w.extractLsb' 8 4 := (e 1 4 (by omega)).trans (extract_low _ _)
  have h5 : (immB w).extractLsb' 5 6 = w.extractLsb' 25 6 := (e5 5 6 (by omega)).trans (extract_low _ _)
  have h11 : (immB w).extractLsb' 11 1 = w.extractLsb' 7 1 := (e11 11 1 (by omega)).trans (extract_low _ _)
  have h12 : (immB w).extractLsb' 12 1 = w.extractLsb' 31 1 := (e11 12 1 (by omega)).trans (extract_high _ _)
  have j7 : w.extractLsb' 31 1 ++ w.extractLsb' 25 6 = funct7F w := slice_join w 25 6 1
  have j5 : w.extractLsb' 8 4 ++ w.extractLsb' 7 1 = rdF w := slice_join w 7 1 4
  unfold encB
  rw [h1, h5, h11, h12, j7, j5]
  exact encR_fields w

theorem encJ_fields (w : Word) : encJ (immJ w) (rdF w) (opcodeF w) = w := by
  have e (s b : Nat) (hs : 1 ≤ s) : (immJ w).extractLsb' s b =
      (w.extractLsb' 31 1 ++ w.extractLsb' 12 8 ++ w.extractLsb' 20 1 ++ w.extractLsb' 21 10).extractLsb' (s - 1) b :=
    extract_left _ 0#1 s b hs
  have e11 (s b : Nat) (hs : 11 ≤ s) : (immJ w).extractLsb' s b =
      (w.extractLsb' 31 1 ++ w.extractLsb' 12 8 ++ w.extractLsb' 20 1).extractLsb' (s - 1 - 10) b :=
    (e s b (by omega)).trans (extract_left _ _ _ b (by omega))
  have e12 (s b : Nat) (hs : 12 ≤ s) : (immJ w).extractLsb' s b =
      (w.extractLsb' 31 1 ++ w.extractLsb' 12 8).extractLsb' (s - 1 - 10 - 1) b :=
    (e11 s b (by omega)).trans (extract_left _ _ _ b (by omega))
  have h1 : (immJ w).extractLsb' 1 10 = w.extractLsb' 21 10 := (e 1 10 (by omega)).trans (extract_low _ _)
  have h11 : (immJ w).extractLsb' 11 1 = w.extractLsb' 20 1 := (e11 11 1 (by omega)).trans (extract_low _ _)
  have h12 : (immJ w).extractLsb' 12 8 = w.extractLsb' 12 8 := (e12 12 8 (by omega)).trans (extract_low _ _)
  have h20 : (immJ w).extractLsb' 20 1 = w.extractLsb' 31 1 := (e12 20 1 (by omega)).trans (extract_high _ _)
  unfold encJ
  rw [h1, h11, h12, h20, slice_join w 21 10 1, slice_join w 20 1 (1 + 10), slice_join w 12 8 (1 + 10 + 1)]
  exact encU_fields w

theorem ofBool_getLsbD {n : Nat} (v : BitVec n) (k : Nat) : BitVec.ofBool (v.getLsbD k) = v.extractLsb' k 1 := by
  apply BitVec.eq_of_getLsbD_eq
  intro i hi
  have : i = 0 := by omega
  subst this
  simp

theorem encA_fields {w : Word} (h3 : funct3F w = 2#3) (ho : opcodeF w = 0x2F#7) :
    encA (funct5F w) (aqF w) (rlF w) (rs2F w) (rs1F w) (rdF w) = w := by
  have h : funct5F w ++ BitVec.ofBool (aqF w) ++ BitVec.ofBool (rlF w) = funct7F w := by
    unfold funct5F aqF rlF funct7F
    rw [ofBool_getLsbD, ofBool_getLsbD, slice_join w 26 1 5, slice_join w 25 1 (5 + 1)]
  unfold encA
  rw [h, ← h3, ← ho]
  exact encR_fields w

/-- A halfword from the fields of the CI layout. -/
theorem encCI_fields (h : Half) : encCI (cFunct3F h) (cBit12F h) (cRdF h) (cRs2F h) (quadF h) = h := by
  unfold encCI cFunct3F cBit12F cRdF cRs2F quadF
  rw [slice_join h 12 1 3, slice_join h 7 5 (3 + 1), slice_join h 2 5 (3 + 1 + 5), slice_join h 0 2 (3 + 1 + 5 + 5)]
  exact extract_all h

/-- A halfword from the fields of the CL layout. -/
theorem encCL_fields (h : Half) :
    encCL (cFunct3F h) (h.extractLsb' 10 3) (cRs1pF h) (cFunct2aF h) (cRs2pF h) (quadF h) = h := by
  unfold encCL cFunct3F cRs1pF cFunct2aF cRs2pF quadF
  rw [slice_join h 10 3 3, slice_join h 7 3 (3 + 3), slice_join h 5 2 (3 + 3 + 3), slice_join h 2 3 (3 + 3 + 3 + 2),
    slice_join h 0 2 (3 + 3 + 3 + 2 + 3)]
  exact extract_all h

end Sys2Proof
end

