-- ==== Sys2Proof/Laws/Fabric.lean ====
section
/-! SUPPORT. The fabric: what each access answers in each class, everything a device access can do to the state, and which
device answers at an address of a region. -/

namespace Sys2Proof.Machine

/-! ### The accesses by class -/

theorem memRead_ram {a : Word} {n : Width} {s : State} (h : classify s.cfg a (widthBytes n) = .ram) :
    memRead a n s = some (leValue n (fun k => memByte s (a.toNat + k)), s) := by
  simp only [memRead, h]

theorem memRead_dev {a : Word} {n : Width} {s : State} {d : Device} {o : Nat}
    (h : classify s.cfg a (widthBytes n) = .dev d o) : memRead a n s = some (devRead d o n s) := by
  simp only [memRead, h]

theorem memRead_out {a : Word} {n : Width} {s : State} (h : classify s.cfg a (widthBytes n) = .outOfRange) :
    memRead a n s = none := by
  simp only [memRead, h]

theorem memWrite_ram {a : Word} {n : Width} {s : State} (v : Word) (h : classify s.cfg a (widthBytes n) = .ram) :
    memWrite a n v s = some (writeRam a.toNat (leBytes n v) s) := by
  simp only [memWrite, h]

theorem memWrite_dev {a : Word} {n : Width} {s : State} {d : Device} {o : Nat} (v : Word)
    (h : classify s.cfg a (widthBytes n) = .dev d o) :
    memWrite a n v s = some (resvSnoop a.toNat (widthBytes n) (devWrite d o n v s)) := by
  simp only [memWrite, h]

theorem memWrite_out {a : Word} {n : Width} {s : State} (v : Word)
    (h : classify s.cfg a (widthBytes n) = .outOfRange) : memWrite a n v s = none := by
  simp only [memWrite, h]

@[simp] theorem leBytes_length (n : Width) (v : Word) : (leBytes n v).length = widthBytes n := by
  cases n <;> rfl

theorem classify_ram_le {c : Config} {a : Word} {n : Nat} (h : classify c a n = .ram) : a.toNat + n ≤ c.memSize := by
  unfold classify at h
  split at h
  · cases h
  · split at h
    · assumption
    · cases h

/-- Whether an access is out of range depends on the direction in nothing. -/
theorem memRead_eq_none_iff (a : Word) (n : Width) (s : State) :
    memRead a n s = none ↔ classify s.cfg a (widthBytes n) = .outOfRange := by
  unfold memRead
  split <;> simp_all

theorem memWrite_eq_none_iff (a : Word) (n : Width) (v : Word) (s : State) :
    memWrite a n v s = none ↔ classify s.cfg a (widthBytes n) = .outOfRange := by
  unfold memWrite
  split <;> simp_all

/-! ### Everything a device access does -/

/-- The state after a device read is one of four. -/
theorem devRead_state (d : Device) (o : Nat) (n : Width) (s : State) :
    (devRead d o n s).2 = s ∨ (devRead d o n s).2 = popUart s ∨ (devRead d o n s).2 = popKbd s ∨
      (devRead d o n s).2 = drawClock s := by
  cases d
  · exact .inl rfl
  · by_cases h0 : o = 0
    · simp [devRead, kbdRead, h0]
    · by_cases h4 : o = 4 <;> simp [devRead, kbdRead, h0, h4]
  · cases n <;> by_cases h0 : o = 0 <;> by_cases h4 : o = 4 <;> simp [devRead, timerRead, h0, h4]
  · cases n <;> by_cases h0 : o = 0 <;> by_cases h5 : o = 5 <;> simp [devRead, uartRead, h0, h5]
  · exact .inl rfl

/-- The state with the keyboard queue empty. -/
def clearKbd (s : State) : State := { s with dev := { s.dev with kbdQ := [] } }

/-- The state after a device write is one of five. -/
theorem devWrite_state (d : Device) (o : Nat) (n : Width) (v : Word) (s : State) :
    devWrite d o n v s = s ∨ devWrite d o n v s = setQuit s ∨ devWrite d o n v s = clearKbd s ∨
      devWrite d o n v s = emit [v.extractLsb' 0 8] s ∨ devWrite d o n v s = fbWrite o n v s := by
  cases d
  · cases n
    · exact .inl rfl
    · exact .inl rfl
    · by_cases h : o = 0 ∧ v = s.cfg.sysctlMagic
      · exact .inr (.inl (if_pos h))
      · exact .inl (if_neg h)
  · by_cases h : o = 8
    · exact .inr (.inr (.inl (if_pos h)))
    · exact .inl (if_neg h)
  · exact .inl rfl
  · cases n
    · by_cases h : o = 0
      · exact .inr (.inr (.inr (.inl (if_pos h))))
      · exact .inl (if_neg h)
    · exact .inl rfl
    · exact .inl rfl
  · exact .inr (.inr (.inr (.inr rfl)))

/-- A device read leaves everything but the devices and the environment. -/
theorem devRead_frame (d : Device) (o : Nat) (n : Width) (s : State) :
    { (devRead d o n s).2 with dev := s.dev, env := s.env } = s := by
  rcases devRead_state d o n s with h | h | h | h <;> rw [h] <;> rfl

/-- A device write leaves everything but the devices and the environment. -/
theorem devWrite_frame (d : Device) (o : Nat) (n : Width) (v : Word) (s : State) :
    { devWrite d o n v s with dev := s.dev, env := s.env } = s := by
  rcases devWrite_state d o n v s with h | h | h | h | h <;> rw [h] <;> rfl

section
variable (d : Device) (o : Nat) (n : Width) (v : Word) (s : State)

@[simp] theorem devRead_cfg : (devRead d o n s).2.cfg = s.cfg := by
  have h := congrArg State.cfg (devRead_frame d o n s); exact h
@[simp] theorem devRead_regs : (devRead d o n s).2.regs = s.regs := by
  have h := congrArg State.regs (devRead_frame d o n s); exact h
@[simp] theorem devRead_pc : (devRead d o n s).2.pc = s.pc := by
  have h := congrArg State.pc (devRead_frame d o n s); exact h
@[simp] theorem devRead_instret : (devRead d o n s).2.instret = s.instret := by
  have h := congrArg State.instret (devRead_frame d o n s); exact h
@[simp] theorem devRead_csrmem : (devRead d o n s).2.csrmem = s.csrmem := by
  have h := congrArg State.csrmem (devRead_frame d o n s); exact h
@[simp] theorem devRead_resvValid : (devRead d o n s).2.resvValid = s.resvValid := by
  have h := congrArg State.resvValid (devRead_frame d o n s); exact h
@[simp] theorem devRead_resvAddr : (devRead d o n s).2.resvAddr = s.resvAddr := by
  have h := congrArg State.resvAddr (devRead_frame d o n s); exact h
@[simp] theorem devRead_mem : (devRead d o n s).2.mem = s.mem := by
  have h := congrArg State.mem (devRead_frame d o n s); exact h
@[simp] theorem devRead_status : (devRead d o n s).2.status = s.status := by
  have h := congrArg State.status (devRead_frame d o n s); exact h
@[simp] theorem devRead_dbg : (devRead d o n s).2.dbg = s.dbg := by
  have h := congrArg State.dbg (devRead_frame d o n s); exact h
@[simp] theorem devWrite_cfg : (devWrite d o n v s).cfg = s.cfg := by
  have h := congrArg State.cfg (devWrite_frame d o n v s); exact h
@[simp] theorem devWrite_regs : (devWrite d o n v s).regs = s.regs := by
  have h := congrArg State.regs (devWrite_frame d o n v s); exact h
@[simp] theorem devWrite_pc : (devWrite d o n v s).pc = s.pc := by
  have h := congrArg State.pc (devWrite_frame d o n v s); exact h
@[simp] theorem devWrite_instret : (devWrite d o n v s).instret = s.instret := by
  have h := congrArg State.instret (devWrite_frame d o n v s); exact h
@[simp] theorem devWrite_csrmem : (devWrite d o n v s).csrmem = s.csrmem := by
  have h := congrArg State.csrmem (devWrite_frame d o n v s); exact h
@[simp] theorem devWrite_resvValid : (devWrite d o n v s).resvValid = s.resvValid := by
  have h := congrArg State.resvValid (devWrite_frame d o n v s); exact h
@[simp] theorem devWrite_resvAddr : (devWrite d o n v s).resvAddr = s.resvAddr := by
  have h := congrArg State.resvAddr (devWrite_frame d o n v s); exact h
@[simp] theorem devWrite_mem : (devWrite d o n v s).mem = s.mem := by
  have h := congrArg State.mem (devWrite_frame d o n v s); exact h
@[simp] theorem devWrite_status : (devWrite d o n v s).status = s.status := by
  have h := congrArg State.status (devWrite_frame d o n v s); exact h
@[simp] theorem devWrite_dbg : (devWrite d o n v s).dbg = s.dbg := by
  have h := congrArg State.dbg (devWrite_frame d o n v s); exact h

end

/-! ### Pixels (R536) -/

@[simp] theorem pixelOf_pixelWord (p : Pixel) : pixelOf (pixelWord p) = p := by
  obtain ⟨a, r, g, b⟩ := p
  simp only [pixelOf, pixelWord, Pixel.mk.injEq]
  refine ⟨?_, ?_, ?_, ?_⟩ <;>
    (apply BitVec.eq_of_getLsbD_eq; intro i hi
     simp only [BitVec.getLsbD_extractLsb', BitVec.getLsbD_append, hi, decide_true, Bool.true_and]
     repeat' split) <;>
    first | omega | (congr 1; omega)

/-- A pixel of the screen lies wholly in the framebuffer. -/
theorem pixelOffset_lt {px py : Nat} (hx : px < fbW) (hy : py < fbH) : pixelOffset px py + 4 ≤ fbSize := by
  simp only [pixelOffset, fbSize, fbW, fbH] at *
  omega

/-- Two pixels of the screen share no byte. -/
theorem pixelOffset_apart {px py qx qy : Nat} (hp : px < fbW) (hq : qx < fbW) (h : (px, py) ≠ (qx, qy)) :
    pixelOffset px py + 4 ≤ pixelOffset qx qy ∨ pixelOffset qx qy + 4 ≤ pixelOffset px py := by
  simp only [pixelOffset, fbW, ne_eq, Prod.mk.injEq] at *
  omega

/-- The bytes of a pixel in address order. -/
theorem fbPixel_bytes (s : State) (px py : Nat) :
    (fbPixel s px py).blue = fbByte s (pixelOffset px py) ∧
    (fbPixel s px py).green = fbByte s (pixelOffset px py + 1) ∧
    (fbPixel s px py).red = fbByte s (pixelOffset px py + 2) ∧
    (fbPixel s px py).alpha = fbByte s (pixelOffset px py + 3) := by
  simp only [fbPixel, leValue, Nat.add_zero]
  have h := pixelOf_pixelWord ⟨fbByte s (pixelOffset px py + 3), fbByte s (pixelOffset px py + 2),
    fbByte s (pixelOffset px py + 1), fbByte s (pixelOffset px py)⟩
  simp only [pixelWord] at h
  rw [h]
  exact ⟨rfl, rfl, rfl, rfl⟩

/-- The word at a pixel's offset is the pixel's. -/
theorem pixelWord_fbPixel (s : State) (px py : Nat) :
    pixelWord (fbPixel s px py) = leValue .word (fun k => fbByte s (pixelOffset px py + k)) := by
  obtain ⟨hb, hg, hr, ha⟩ := fbPixel_bytes s px py
  simp only [pixelWord, hb, hg, hr, ha, leValue, Nat.add_zero]

/-- A pixel's word is stored as its bytes B, G, R, A. -/
theorem leBytes_pixelWord (p : Pixel) : leBytes .word (pixelWord p) = [p.blue, p.green, p.red, p.alpha] := by
  show [(pixelOf (pixelWord p)).blue, (pixelOf (pixelWord p)).green, (pixelOf (pixelWord p)).red,
    (pixelOf (pixelWord p)).alpha] = _
  rw [pixelOf_pixelWord]

/-! ### Which device answers -/

/-- A region is a device's presence and its range of addresses. -/
theorem inRegion_iff (c : Config) (d : Device) (a : Word) : inRegion c d a = true ↔
    devicePresent c d = true ∧ regionBase c d ≤ a.toNat ∧ a.toNat < regionBase c d + regionSize d := by
  simp only [inRegion, Bool.and_eq_true, decide_eq_true_eq, and_assoc]

/-- Two regions that are apart share no address. -/
theorem not_inRegion_of_apart {c : Config} {d e : Device} {a : Word} (h : regionsApart c d e = true)
    (ha : inRegion c e a = true) : inRegion c d a = false := by
  simp only [regionsApart, Bool.or_eq_true, Bool.not_eq_true', rangesMeet_eq_false] at h
  simp only [inRegion, Bool.and_eq_true, decide_eq_true_eq] at ha
  by_contra hd
  simp only [inRegion, Bool.not_eq_false, Bool.and_eq_true, decide_eq_true_eq] at hd
  rcases h with (h | h) | h
  · simp [h] at hd
  · simp [h] at ha
  · omega

/-- The address of an offset in a placed region. -/
theorem toNat_region_add {c : Config} {d : Device} {base : Word} {o : Nat} (hb : base.toNat = regionBase c d)
    (hp : regionPlaced c d = true) (hd : devicePresent c d = true) (ho : o < regionSize d) :
    (base + BitVec.ofNat 32 o).toNat = regionBase c d + o := by
  simp only [regionPlaced, hd, Bool.not_true, Bool.false_or, Bool.and_eq_true, decide_eq_true_eq] at hp
  rw [BitVec.toNat_add, BitVec.toNat_ofNat, hb]
  have : o < 2 ^ 32 := by omega
  rw [Nat.mod_eq_of_lt this, Nat.mod_eq_of_lt (by omega)]

theorem inRegion_add {c : Config} {d : Device} {base : Word} {o : Nat} (hb : base.toNat = regionBase c d)
    (hp : regionPlaced c d = true) (hd : devicePresent c d = true) (ho : o < regionSize d) :
    inRegion c d (base + BitVec.ofNat 32 o) = true := by
  have := toNat_region_add hb hp hd ho
  simp only [inRegion, hd, this, Bool.true_and, Bool.and_eq_true, decide_eq_true_eq]
  omega

/-- On an allowed configuration an address of a region reaches its device, but the framebuffer's under the keyboard. -/
theorem deviceAt_of_inRegion {c : Config} (h : ConfigOk c) {d : Device} {a : Word} (ha : inRegion c d a = true)
    (hk : d = .framebuffer → inRegion c .keyboard a = false) : deviceAt c a = some d := by
  obtain ⟨-, -, -, -, sk, st, su, sf, kt, ku, tu, tf, uf⟩ := h
  cases d
  · simp [deviceAt, ha]
  · simp [deviceAt, ha, not_inRegion_of_apart sk ha]
  · simp [deviceAt, ha, not_inRegion_of_apart st ha, not_inRegion_of_apart kt ha]
  · simp [deviceAt, ha, not_inRegion_of_apart su ha, not_inRegion_of_apart ku ha, not_inRegion_of_apart tu ha]
  · simp [deviceAt, ha, not_inRegion_of_apart sf ha, hk rfl, not_inRegion_of_apart tf ha, not_inRegion_of_apart uf ha]

/-- The class of an access at an offset of a region. -/
theorem classify_region {c : Config} (h : ConfigOk c) {d : Device} {base : Word} {o : Nat} (n : Nat)
    (hb : base.toNat = regionBase c d) (hd : devicePresent c d = true) (ho : o < regionSize d)
    (hf : d ≠ .framebuffer) : classify c (base + BitVec.ofNat 32 o) n = .dev d o := by
  have hp : regionPlaced c d = true := h.2.2.2.1 d (by cases d <;> simp)
  simp only [classify, deviceAt_of_inRegion h (inRegion_add hb hp hd ho) (fun e => absurd e hf),
    toNat_region_add hb hp hd ho]
  simp

end Sys2Proof.Machine
end

