-- ==== Sys2Proof/Laws/Exec.lean ====
section
/-! SUPPORT. What the shared operations of the meanings answer, said once for each, and what an instruction of each shape can
do. -/

namespace Sys2Proof.Machine

/-! ### The effects in the statements' terms -/

@[simp] theorem writeReg_zero (v : Word) (s : State) : writeReg 0#5 v s = s := rfl

theorem writesReg_retire (s : State) (rd : RegIdx) (v n : Word) :
    WritesReg s rd v n (retire n (writeReg rd v s)) where
  value := by
    rw [readReg_retire, readReg_writeReg]
    by_cases h : rd = 0#5 <;> simp [h]
  others r hr := by
    rw [readReg_retire, readReg_writeReg, if_neg hr]
    by_cases h : r = 0#5 <;> simp [h]
  x0 := retire_regs_zero n _
  pc := rfl
  count := rfl
  bytes _ := rfl
  rest := rfl

theorem writesReg_retire_only (s : State) (n : Word) : WritesReg s 0#5 0#32 n (retire n s) :=
  writesReg_retire s 0#5 0#32 n

theorem storesBytes_writeRam (s : State) (a : Nat) (bs : List Byte) : StoresBytes s a bs (writeRam a bs s) where
  stored k h := by
    have h1 : a ≤ a + k := by omega
    have h2 : a + k - a < bs.length := by omega
    rw [memByte_writeRam, dif_pos ⟨h1, h2⟩]
    simp
  kept b hb := by
    rw [memByte_writeRam, dif_neg (by omega)]
  resv := by
    rw [writeRam_resvValid]
    simp only [Bool.and_eq_true, Bool.not_eq_true', rangesMeet_eq_false]
    constructor
    · rintro ⟨h1, h2⟩
      exact ⟨h1, by omega⟩
    · rintro ⟨h1, h2⟩
      exact ⟨h1, by omega⟩
  rest := rfl

theorem storesCsr_csrWrite (s : State) {c : CsrIdx} (v : Word) (h : c ∉ counterCsrs) :
    StoresCsr s c v (csrWrite c v s) where
  stored := by simp [h, sparseGet_sparseSet]
  kept d hd := by
    have : d.toNat ≠ c.toNat := fun e => hd (BitVec.eq_of_toNat_eq e)
    simp [h, sparseGet_sparseSet, this]
  rest := rfl

theorem onlyDraws_drawClock (s : State) : OnlyDraws s (drawClock s) := ⟨fun _ => rfl, rfl, rfl, rfl, rfl⟩

theorem onlyDraws_drawRead (s : State) : OnlyDraws s (drawRead s) := ⟨fun _ => rfl, rfl, rfl, rfl, rfl⟩

theorem onlyDraws_drawMmap (len : Word) (r : Option Word) (s : State) : OnlyDraws s (drawMmap len r s) :=
  ⟨fun _ => rfl, rfl, rfl, rfl, rfl⟩

/-- Leaving an index alone is writing what it reads. -/
theorem storesCsr_same (s : State) (c : CsrIdx) : StoresCsr s c (sparseGet s.csrmem c.toNat) s where
  stored := rfl
  kept _ _ := rfl
  rest := rfl

@[simp] theorem csrWrite_counter (s : State) {c : CsrIdx} (v : Word) (h : c ∈ counterCsrs) : csrWrite c v s = s := by
  simp [csrWrite, h]

/-! ### Loads, stores, atomics: their cases -/

theorem loadOp_some {n : Width} {ext : Word → Word} {ilen : Word} {rd rs1 : RegIdx} {disp : Word} {s : State}
    {r : Word × State} (h : memRead (effAddr rs1 disp s) n s = some r) :
    loadOp n ext ilen rd rs1 disp s = .next (retire (s.pc + ilen) (writeReg rd (ext r.1) r.2)) := by
  simp only [loadOp, h]
  rfl

theorem loadOp_none {n : Width} {ext : Word → Word} {ilen : Word} {rd rs1 : RegIdx} {disp : Word} {s : State}
    (h : memRead (effAddr rs1 disp s) n s = none) :
    loadOp n ext ilen rd rs1 disp s = .next { s with status := .halted .outOfRangeLoad (effAddr rs1 disp s) } := by
  simp only [loadOp, h]
  rfl

theorem storeOp_some {n : Width} {ilen : Word} {rs1 rs2 : RegIdx} {disp : Word} {s t : State}
    (h : memWrite (effAddr rs1 disp s) n (readReg rs2 s) s = some t) :
    storeOp n ilen rs1 rs2 disp s = .next (retire (s.pc + ilen) t) := by
  simp only [storeOp, h]

theorem storeOp_none {n : Width} {ilen : Word} {rs1 rs2 : RegIdx} {disp : Word} {s : State}
    (h : memWrite (effAddr rs1 disp s) n (readReg rs2 s) s = none) :
    storeOp n ilen rs1 rs2 disp s = .next { s with status := .halted .outOfRangeStore (effAddr rs1 disp s) } := by
  simp only [storeOp, h]
  rfl

/-- An AMO whose read succeeds writes: the classification is the same. -/
theorem amoOp_some {op : Word → Word → Word} {rd rs1 rs2 : RegIdx} {s : State} {r : Word × State}
    (h : memRead (readReg rs1 s) .word s = some r) :
    ∃ t, memWrite (readReg rs1 s) .word (op r.1 (readReg rs2 s)) r.2 = some t ∧
      amoOp op rd rs1 rs2 s = .next (retire (s.pc + 4#32) (writeReg rd r.1 t)) := by
  have hc : r.2.cfg = s.cfg := by
    unfold memRead at h
    split at h <;> simp_all
    · rw [← h]
    · rw [← h, devRead_cfg]
  cases hw : memWrite (readReg rs1 s) .word (op r.1 (readReg rs2 s)) r.2 with
  | none =>
    rw [memWrite_eq_none_iff, hc, ← memRead_eq_none_iff] at hw
    simp [h] at hw
  | some t =>
    refine ⟨t, rfl, ?_⟩
    simp only [amoOp, h, hw]
    rfl

theorem amoOp_none {op : Word → Word → Word} {rd rs1 rs2 : RegIdx} {s : State}
    (h : memRead (readReg rs1 s) .word s = none) :
    amoOp op rd rs1 rs2 s = .next { s with status := .halted .outOfRangeLoad (readReg rs1 s) } := by
  simp only [amoOp, h]
  rfl

/-- A CSR read changes nothing, but for the draw that a time index makes. -/
theorem csrRead_state (c : CsrIdx) (s : State) : (csrRead c s).2 = s ∨ (csrRead c s).2 = drawClock s := by
  unfold csrRead
  split
  · exact .inl rfl
  split
  · exact .inl rfl
  split
  · exact .inr rfl
  split
  · exact .inr rfl
  · exact .inl rfl

theorem csrRead_plain {c : CsrIdx} (h : c ∉ counterCsrs) (s : State) :
    csrRead c s = (sparseGet s.csrmem c.toNat, s) := by
  simp only [counterCsrs, List.mem_append, List.mem_cons, not_or] at h
  simp [csrRead, h]

/-! ### What an instruction of each shape can do -/

/-- The basic changes an instruction makes besides its register, the pc and the counter. -/
inductive Effect (s : State) : State → Prop where
  | drawClock : Effect s (drawClock s)
  | drawRead : Effect s (drawRead s)
  | drawMmap (len : Word) (r : Option Word) : Effect s (drawMmap len r s)
  | emit (bs : List Byte) : Effect s (emit bs s)
  | setBrk (v : Word) : Effect s { s with env := { s.env with brk := v } }
  | popUart : Effect s (popUart s)
  | popKbd : Effect s (popKbd s)
  | clearKbd : Effect s (clearKbd s)
  | setQuit : Effect s (setQuit s)
  | fbWrite (o : Nat) (n : Width) (v : Word) : Effect s (fbWrite o n v s)
  | writeRam (a : Nat) (bs : List Byte) (h : a + bs.length ≤ s.cfg.memSize) : Effect s (writeRam a bs s)
  | snoop (a n : Nat) : Effect s (resvSnoop a n s)
  | setResv (a : Word) (h : classify s.cfg a 4 ≠ .outOfRange) : Effect s (setResv a s)
  | clearResv : Effect s (clearResv s)
  | csrWrite (c : CsrIdx) (v : Word) : Effect s (csrWrite c v s)

/-- Basic changes one after another. -/
inductive Effects (s : State) : State → Prop where
  | refl : Effects s s
  | snoc {u v : State} : Effects s u → Effect u v → Effects s v

theorem Effects.of {s u : State} (h : Effect s u) : Effects s u := .snoc .refl h

theorem devRead_effects (d : Device) (o : Nat) (n : Width) (s : State) : Effects s (devRead d o n s).2 := by
  rcases devRead_state d o n s with h | h | h | h <;> rw [h]
  · exact .refl
  · exact .of .popUart
  · exact .of .popKbd
  · exact .of .drawClock

theorem Effects.devWrite {s u : State} (h : Effects s u) (d : Device) (o : Nat) (n : Width) (v : Word) :
    Effects s (devWrite d o n v u) := by
  rcases devWrite_state d o n v u with e | e | e | e | e <;> rw [e]
  · exact h
  · exact .snoc h .setQuit
  · exact .snoc h .clearKbd
  · exact .snoc h (.emit _)
  · exact .snoc h (.fbWrite _ _ _)

theorem memRead_effects {a : Word} {n : Width} {s : State} {r : Word × State} (h : memRead a n s = some r) :
    Effects s r.2 := by
  unfold memRead at h
  split at h
  · cases h; exact .refl
  · cases h; exact devRead_effects _ _ _ _
  · cases h

theorem Effects.memWrite {s u t : State} (h : Effects s u) {a : Word} {n : Width} {v : Word}
    (hw : memWrite a n v u = some t) : Effects s t := by
  unfold Machine.memWrite at hw
  split at hw
  · rename_i hc
    cases hw
    exact .snoc h (.writeRam _ _ (by rw [leBytes_length]; exact classify_ram_le hc))
  · cases hw
    exact .snoc (h.devWrite _ _ _ _) (.snoop _ _)
  · cases hw

/-- The answer of `exec`: it halts, it exits, or after some basic changes it writes a register and retires. -/
inductive Answer (s : State) : Result → Prop where
  | halts (r : HaltReason) (a : Word) : Answer s (.next { s with status := .halted r a })
  | exits (c : Word) : Answer s (.next { s with status := .exited c })
  | retires {u : State} (h : Effects s u) (rd : RegIdx) (v n : Word) : Answer s (.next (retire n (writeReg rd v u)))

theorem Answer.pure (s : State) (rd : RegIdx) (v n : Word) : Answer s (.next (retire n (writeReg rd v s))) :=
  .retires .refl rd v n

theorem Answer.only (s : State) (n : Word) : Answer s (.next (retire n s)) := .pure s 0#5 0#32 n

theorem loadOp_answer (n : Width) (ext : Word → Word) (ilen : Word) (rd rs1 : RegIdx) (disp : Word) (s : State) :
    Answer s (loadOp n ext ilen rd rs1 disp s) := by
  cases h : memRead (effAddr rs1 disp s) n s with
  | none => rw [loadOp_none h]; exact .halts _ _
  | some r => rw [loadOp_some h]; exact .retires (memRead_effects h) _ _ _

theorem storeOp_answer (n : Width) (ilen : Word) (rs1 rs2 : RegIdx) (disp : Word) (s : State) :
    Answer s (storeOp n ilen rs1 rs2 disp s) := by
  cases h : memWrite (effAddr rs1 disp s) n (readReg rs2 s) s with
  | none => rw [storeOp_none h]; exact .halts _ _
  | some t => rw [storeOp_some h]; exact .retires (u := t) (Effects.refl.memWrite h) 0#5 0#32 _

theorem amoOp_answer (op : Word → Word → Word) (rd rs1 rs2 : RegIdx) (s : State) :
    Answer s (amoOp op rd rs1 rs2 s) := by
  cases h : memRead (readReg rs1 s) .word s with
  | none => rw [amoOp_none h]; exact .halts _ _
  | some r =>
    obtain ⟨t, hw, e⟩ := amoOp_some (op := op) (rd := rd) (rs2 := rs2) h
    rw [e]
    exact .retires ((memRead_effects h).memWrite hw) _ _ _

theorem execLrW_answer (rd rs1 : RegIdx) (aq rl : Bool) (s : State) : Answer s (execLrW rd rs1 aq rl s) := by
  unfold execLrW
  split
  · rename_i r h
    refine .retires (.snoc (memRead_effects h) (.setResv _ ?_)) _ _ _
    have hc : r.2.cfg = s.cfg := by
      unfold memRead at h
      split at h <;> simp_all
      · rw [← h]
      · rw [← h, devRead_cfg]
    rw [hc]
    intro e
    rw [← show widthBytes .word = 4 from rfl, ← memRead_eq_none_iff] at e
    simp [e] at h
  · exact .halts _ _

theorem execScW_answer (rd rs1 rs2 : RegIdx) (aq rl : Bool) (s : State) : Answer s (execScW rd rs1 rs2 aq rl s) := by
  unfold execScW
  split
  · split
    · rename_i t h
      exact .retires (.snoc (Effects.refl.memWrite h) .clearResv) _ _ _
    · exact .halts _ _
  · exact .retires (.of .clearResv) _ _ _

theorem csrRead_effects (c : CsrIdx) (s : State) : Effects s (csrRead c s).2 := by
  rcases csrRead_state c s with h | h <;> rw [h]
  · exact .refl
  · exact .of .drawClock

theorem csrWriteOp_answer (rd : RegIdx) (c : CsrIdx) (src : Word) (s : State) : Answer s (csrWriteOp rd c src s) :=
  .retires (.snoc (csrRead_effects c s) (.csrWrite _ _)) _ _ _

theorem csrModifyOp_answer (f : Word → Word → Word) (rd : RegIdx) (c : CsrIdx) (src : Word) (field : BitVec 5)
    (s : State) : Answer s (csrModifyOp f rd c src field s) := by
  refine .retires ?_ _ _ _
  split
  · exact csrRead_effects c s
  · exact .snoc (csrRead_effects c s) (.csrWrite _ _)

theorem hostReadBytes_length (n : Nat) (s : State) : (hostReadBytes n s).length ≤ n := by
  simp only [hostReadBytes, List.length_take]
  omega

theorem envCall_answer (s : State) : Answer s (envCall s) := by
  unfold envCall
  dsimp only
  split
  · exact .exits _
  split
  · unfold envWrite
    simp only
    split
    · exact .retires (.of (.emit _)) _ _ _
    · exact .pure _ _ _ _
  split
  · unfold envRead
    simp only
    split
    · rename_i h
      refine .retires (.snoc (.of .drawRead) (.writeRam _ _ ?_)) _ _ _
      have h1 := h.2
      have h2 := hostReadBytes_length (readReg 12#5 s).toNat s
      simp only [bufferInRam, decide_eq_true_eq] at h1
      simp only [drawRead_cfg]
      omega
    · exact .pure _ _ _ _
  split
  · unfold envBrk
    split
    · exact .pure _ _ _ _
    · exact .retires (.of (.setBrk _)) _ _ _
  split
  · exact .retires (.of (.drawMmap _ _)) _ _ _
  split
  · unfold envClock
    refine .retires ?_ _ _ _
    split
    · rename_i h
      simp only [bufferInRam, decide_eq_true_eq] at h
      exact .snoc (.of .drawClock) (.writeRam _ _ h)
    · exact .of .drawClock
  · exact .pure _ _ _ _

/-- Every instruction answers in one of these ways; none refuses and none faults. -/
theorem exec_answer (i : Instr) (s : State) : Answer s (exec i s) := by
  cases i with
  | lui _ _ => exact .pure _ _ _ _
  | auipc _ _ => exact .pure _ _ _ _
  | jal _ _ => exact .pure _ _ _ _
  | jalr _ _ _ => exact .pure _ _ _ _
  | beq _ _ _ => exact .only _ _
  | bne _ _ _ => exact .only _ _
  | blt _ _ _ => exact .only _ _
  | bge _ _ _ => exact .only _ _
  | bltu _ _ _ => exact .only _ _
  | bgeu _ _ _ => exact .only _ _
  | lb _ _ _ => exact loadOp_answer _ _ _ _ _ _ _
  | lh _ _ _ => exact loadOp_answer _ _ _ _ _ _ _
  | lw _ _ _ => exact loadOp_answer _ _ _ _ _ _ _
  | lbu _ _ _ => exact loadOp_answer _ _ _ _ _ _ _
  | lhu _ _ _ => exact loadOp_answer _ _ _ _ _ _ _
  | sb _ _ _ => exact storeOp_answer _ _ _ _ _ _
  | sh _ _ _ => exact storeOp_answer _ _ _ _ _ _
  | sw _ _ _ => exact storeOp_answer _ _ _ _ _ _
  | addi _ _ _ => exact .pure _ _ _ _
  | slti _ _ _ => exact .pure _ _ _ _
  | sltiu _ _ _ => exact .pure _ _ _ _
  | xori _ _ _ => exact .pure _ _ _ _
  | ori _ _ _ => exact .pure _ _ _ _
  | andi _ _ _ => exact .pure _ _ _ _
  | slli _ _ _ => exact .pure _ _ _ _
  | srli _ _ _ => exact .pure _ _ _ _
  | srai _ _ _ => exact .pure _ _ _ _
  | add _ _ _ => exact .pure _ _ _ _
  | sub _ _ _ => exact .pure _ _ _ _
  | sll _ _ _ => exact .pure _ _ _ _
  | slt _ _ _ => exact .pure _ _ _ _
  | sltu _ _ _ => exact .pure _ _ _ _
  | xor _ _ _ => exact .pure _ _ _ _
  | srl _ _ _ => exact .pure _ _ _ _
  | sra _ _ _ => exact .pure _ _ _ _
  | or _ _ _ => exact .pure _ _ _ _
  | and _ _ _ => exact .pure _ _ _ _
  | mul _ _ _ => exact .pure _ _ _ _
  | mulh _ _ _ => exact .pure _ _ _ _
  | mulhsu _ _ _ => exact .pure _ _ _ _
  | mulhu _ _ _ => exact .pure _ _ _ _
  | div _ _ _ => exact .pure _ _ _ _
  | divu _ _ _ => exact .pure _ _ _ _
  | rem _ _ _ => exact .pure _ _ _ _
  | remu _ _ _ => exact .pure _ _ _ _
  | fence _ _ _ _ _ => exact .only _ _
  | fenceI _ _ _ => exact .only _ _
  | ecall => exact envCall_answer _
  | ebreak => exact .halts _ _
  | csrrw _ _ _ => exact csrWriteOp_answer _ _ _ _
  | csrrs _ _ _ => exact csrModifyOp_answer _ _ _ _ _ _
  | csrrc _ _ _ => exact csrModifyOp_answer _ _ _ _ _ _
  | csrrwi _ _ _ => exact csrWriteOp_answer _ _ _ _
  | csrrsi _ _ _ => exact csrModifyOp_answer _ _ _ _ _ _
  | csrrci _ _ _ => exact csrModifyOp_answer _ _ _ _ _ _
  | lrW rd rs1 aq rl => exact execLrW_answer rd rs1 aq rl s
  | scW rd rs1 rs2 aq rl => exact execScW_answer rd rs1 rs2 aq rl s
  | amoswapW _ _ _ _ _ => exact amoOp_answer _ _ _ _ _
  | amoaddW _ _ _ _ _ => exact amoOp_answer _ _ _ _ _
  | amoxorW _ _ _ _ _ => exact amoOp_answer _ _ _ _ _
  | amoandW _ _ _ _ _ => exact amoOp_answer _ _ _ _ _
  | amoorW _ _ _ _ _ => exact amoOp_answer _ _ _ _ _
  | amominW _ _ _ _ _ => exact amoOp_answer _ _ _ _ _
  | amomaxW _ _ _ _ _ => exact amoOp_answer _ _ _ _ _
  | amominuW _ _ _ _ _ => exact amoOp_answer _ _ _ _ _
  | amomaxuW _ _ _ _ _ => exact amoOp_answer _ _ _ _ _
  | cAddi4spn _ _ => exact .pure _ _ _ _
  | cLw _ _ _ => exact loadOp_answer _ _ _ _ _ _ _
  | cSw _ _ _ => exact storeOp_answer _ _ _ _ _ _
  | cNop _ => exact .only _ _
  | cAddi _ _ => exact .pure _ _ _ _
  | cJal _ => exact .pure _ _ _ _
  | cLi _ _ => exact .pure _ _ _ _
  | cAddi16sp _ => exact .pure _ _ _ _
  | cLui _ _ => exact .pure _ _ _ _
  | cSrli _ _ => exact .pure _ _ _ _
  | cSrai _ _ => exact .pure _ _ _ _
  | cAndi _ _ => exact .pure _ _ _ _
  | cSub _ _ => exact .pure _ _ _ _
  | cXor _ _ => exact .pure _ _ _ _
  | cOr _ _ => exact .pure _ _ _ _
  | cAnd _ _ => exact .pure _ _ _ _
  | cJ _ => exact .pure _ _ _ _
  | cBeqz _ _ => exact .only _ _
  | cBnez _ _ => exact .only _ _
  | cSlli _ _ => exact .pure _ _ _ _
  | cLwsp _ _ => exact loadOp_answer _ _ _ _ _ _ _
  | cJr _ => exact .pure _ _ _ _
  | cMv _ _ => exact .pure _ _ _ _
  | cEbreak => exact .halts _ _
  | cJalr _ => exact .pure _ _ _ _
  | cAdd _ _ => exact .pure _ _ _ _
  | cSwsp _ _ => exact storeOp_answer _ _ _ _ _ _

theorem exec_next (i : Instr) (s : State) : ∃ t, exec i s = .next t := by
  have h := exec_answer i s
  generalize exec i s = r at h
  cases h <;> exact ⟨_, rfl⟩

end Sys2Proof.Machine
end

