-- ==== Sys2Proof/Laws/PerInstr.lean ====
section
/-! SUPPORT. The family EncodingRow: the encoding of an instruction has, under the mask of its row of opcode_table.json, the
row's value (R133, R139), whatever its operands. -/

namespace Sys2Proof.Laws

/-! ### A word under a mask, layout by layout -/

theorem mask_encR (f7 m7 : BitVec 7) (rs2 m2 rs1 m1 : RegIdx) (f3 m3 : BitVec 3) (rd md : RegIdx) (op mo : BitVec 7) :
    encR f7 rs2 rs1 f3 rd op &&& encR m7 m2 m1 m3 md mo =
      encR (f7 &&& m7) (rs2 &&& m2) (rs1 &&& m1) (f3 &&& m3) (rd &&& md) (op &&& mo) := by
  show (f7 ++ rs2 ++ rs1 ++ f3 ++ rd ++ op) &&& (m7 ++ m2 ++ m1 ++ m3 ++ md ++ mo) = _ ++ _ ++ _ ++ _ ++ _ ++ _
  simp only [BitVec.and_append]

theorem mask_encI (imm mi : BitVec 12) (rs1 m1 : RegIdx) (f3 m3 : BitVec 3) (rd md : RegIdx) (op mo : BitVec 7) :
    encI imm rs1 f3 rd op &&& encI mi m1 m3 md mo =
      encI (imm &&& mi) (rs1 &&& m1) (f3 &&& m3) (rd &&& md) (op &&& mo) := by
  show (imm ++ rs1 ++ f3 ++ rd ++ op) &&& (mi ++ m1 ++ m3 ++ md ++ mo) = _ ++ _ ++ _ ++ _ ++ _
  simp only [BitVec.and_append]

theorem mask_encU (imm mi : BitVec 20) (rd md : RegIdx) (op mo : BitVec 7) :
    encU imm rd op &&& encU mi md mo = encU (imm &&& mi) (rd &&& md) (op &&& mo) := by
  show (imm ++ rd ++ op) &&& (mi ++ md ++ mo) = _ ++ _ ++ _
  simp only [BitVec.and_append]

theorem mask_encCI (f3 m3 : BitVec 3) (b mb : BitVec 1) (r mr lo ml : BitVec 5) (q mq : BitVec 2) :
    encCI f3 b r lo q &&& encCI m3 mb mr ml mq =
      encCI (f3 &&& m3) (b &&& mb) (r &&& mr) (lo &&& ml) (q &&& mq) := by
  show (f3 ++ b ++ r ++ lo ++ q) &&& (m3 ++ mb ++ mr ++ ml ++ mq) = _ ++ _ ++ _ ++ _ ++ _
  simp only [BitVec.and_append]

theorem mask_encCL (f3 m3 hi mh : BitVec 3) (r1 m1 : CReg) (mid mm : BitVec 2) (r2 m2 : CReg) (q mq : BitVec 2) :
    encCL f3 hi r1 mid r2 q &&& encCL m3 mh m1 mm m2 mq =
      encCL (f3 &&& m3) (hi &&& mh) (r1 &&& m1) (mid &&& mm) (r2 &&& m2) (q &&& mq) := by
  show (f3 ++ hi ++ r1 ++ mid ++ r2 ++ q) &&& (m3 ++ mh ++ m1 ++ mm ++ m2 ++ mq) = _ ++ _ ++ _ ++ _ ++ _ ++ _
  simp only [BitVec.and_append]

/-- The AMO layout under the mask that keeps `funct5`, `rs2` at will, `funct3` and the opcode. -/
theorem mask_encA (f5 : BitVec 5) (aq rl : Bool) (rs2 m2 rs1 rd : RegIdx) :
    encA f5 aq rl rs2 rs1 rd &&& encR 0x7C#7 m2 0#5 7#3 0#5 0x7F#7 = encR (f5 ++ 0#2) (rs2 &&& m2) 0#5 2#3 0#5 0x2F#7 := by
  have h : (f5 ++ BitVec.ofBool aq ++ BitVec.ofBool rl) &&& 0x7C#7 = f5 ++ 0#2 := by
    show (f5 ++ BitVec.ofBool aq ++ BitVec.ofBool rl) &&& (0x1F#5 ++ 0#1 ++ 0#1) = _
    simp only [BitVec.and_append]
    cases aq <;> cases rl <;> revert f5 <;> decide
  unfold encA
  rw [mask_encR]
  congr 1
  · simp
  · simp

/-- CIW, CJ and CSS under the mask of the quadrant and `funct3`. -/
theorem mask_encCIW (imm : BitVec 10) (rd : CReg) : encCIW imm rd &&& 0xE003#16 = 0#16 := by
  show (0#3 ++ imm.extractLsb' 4 2 ++ imm.extractLsb' 6 4 ++ imm.extractLsb' 2 1 ++ imm.extractLsb' 3 1 ++ rd ++ 0#2) &&&
    (7#3 ++ 0#2 ++ 0#4 ++ 0#1 ++ 0#1 ++ 0#3 ++ 3#2) = _
  simp only [BitVec.and_append, BitVec.and_zero, BitVec.zero_and]
  decide

theorem mask_encCSS (imm : BitVec 8) (rs2 : RegIdx) : encCSS imm rs2 &&& 0xE003#16 = 0xC002#16 := by
  show (6#3 ++ imm.extractLsb' 2 4 ++ imm.extractLsb' 6 2 ++ rs2 ++ 2#2) &&& (7#3 ++ 0#4 ++ 0#2 ++ 0#5 ++ 3#2) = _
  simp only [BitVec.and_append, BitVec.and_zero]
  decide

theorem mask_encCJ (f3 : BitVec 3) (off : BitVec 12) : encCJ f3 off &&& 0xE003#16 = encCJ f3 0#12 := by
  show (f3 ++ off.extractLsb' 11 1 ++ off.extractLsb' 4 1 ++ off.extractLsb' 8 2 ++ off.extractLsb' 10 1 ++
    off.extractLsb' 6 1 ++ off.extractLsb' 7 1 ++ off.extractLsb' 1 3 ++ off.extractLsb' 5 1 ++ 1#2) &&&
    (7#3 ++ 0#1 ++ 0#1 ++ 0#2 ++ 0#1 ++ 0#1 ++ 0#1 ++ 0#3 ++ 0#1 ++ 3#2) = _
  simp only [BitVec.and_append, BitVec.and_zero]
  revert f3
  decide

/-! ### A word matches a row -/

theorem row_of {w m x v : Word} (h : w &&& m = x) (hv : x = v) : OpcodeRow.matchesWord ⟨m, v⟩ w = true := by
  unfold OpcodeRow.matchesWord
  rw [h, hv, beq_self_eq_true]

theorem row_of_half {h m x : Half} {v : Word} (e : h &&& m = x) (hv : x.zeroExtend 32 = v) :
    OpcodeRow.matchesWord ⟨m.zeroExtend 32, v⟩ (h.zeroExtend 32) = true :=
  row_of (x := x.zeroExtend 32) (by rw [← e]; simp) hv

namespace EncodingRow

/-- An instruction's encoding matches its row. -/
def Statement (i : Instr) : Prop := i.row.matchesWord (encode i).raw = true

theorem lui (rd : RegIdx) (imm : BitVec 20) : Statement (.lui rd imm) :=
  row_of (mask_encU _ 0x0#20 _ 0x0#5 _ 0x7F#7) (by simp [encU])
theorem auipc (rd : RegIdx) (imm : BitVec 20) : Statement (.auipc rd imm) :=
  row_of (mask_encU _ 0x0#20 _ 0x0#5 _ 0x7F#7) (by simp [encU])
theorem jal (rd : RegIdx) (off : BitVec 21) : Statement (.jal rd off) :=
  row_of (mask_encU _ 0x0#20 _ 0x0#5 _ 0x7F#7) (by simp [encU])
theorem jalr (rd : RegIdx) (rs1 : RegIdx) (imm : BitVec 12) : Statement (.jalr rd rs1 imm) :=
  row_of (mask_encI _ 0x0#12 _ 0x0#5 _ 0x7#3 _ 0x0#5 _ 0x7F#7) (by simp [encI])
theorem beq (rs1 : RegIdx) (rs2 : RegIdx) (off : BitVec 13) : Statement (.beq rs1 rs2 off) :=
  row_of (mask_encR _ 0x0#7 _ 0x0#5 _ 0x0#5 _ 0x7#3 _ 0x0#5 _ 0x7F#7) (by simp [encR])
theorem bne (rs1 : RegIdx) (rs2 : RegIdx) (off : BitVec 13) : Statement (.bne rs1 rs2 off) :=
  row_of (mask_encR _ 0x0#7 _ 0x0#5 _ 0x0#5 _ 0x7#3 _ 0x0#5 _ 0x7F#7) (by simp [encR])
theorem blt (rs1 : RegIdx) (rs2 : RegIdx) (off : BitVec 13) : Statement (.blt rs1 rs2 off) :=
  row_of (mask_encR _ 0x0#7 _ 0x0#5 _ 0x0#5 _ 0x7#3 _ 0x0#5 _ 0x7F#7) (by simp [encR])
theorem bge (rs1 : RegIdx) (rs2 : RegIdx) (off : BitVec 13) : Statement (.bge rs1 rs2 off) :=
  row_of (mask_encR _ 0x0#7 _ 0x0#5 _ 0x0#5 _ 0x7#3 _ 0x0#5 _ 0x7F#7) (by simp [encR])
theorem bltu (rs1 : RegIdx) (rs2 : RegIdx) (off : BitVec 13) : Statement (.bltu rs1 rs2 off) :=
  row_of (mask_encR _ 0x0#7 _ 0x0#5 _ 0x0#5 _ 0x7#3 _ 0x0#5 _ 0x7F#7) (by simp [encR])
theorem bgeu (rs1 : RegIdx) (rs2 : RegIdx) (off : BitVec 13) : Statement (.bgeu rs1 rs2 off) :=
  row_of (mask_encR _ 0x0#7 _ 0x0#5 _ 0x0#5 _ 0x7#3 _ 0x0#5 _ 0x7F#7) (by simp [encR])
theorem lb (rd : RegIdx) (rs1 : RegIdx) (imm : BitVec 12) : Statement (.lb rd rs1 imm) :=
  row_of (mask_encI _ 0x0#12 _ 0x0#5 _ 0x7#3 _ 0x0#5 _ 0x7F#7) (by simp [encI])
theorem lh (rd : RegIdx) (rs1 : RegIdx) (imm : BitVec 12) : Statement (.lh rd rs1 imm) :=
  row_of (mask_encI _ 0x0#12 _ 0x0#5 _ 0x7#3 _ 0x0#5 _ 0x7F#7) (by simp [encI])
theorem lw (rd : RegIdx) (rs1 : RegIdx) (imm : BitVec 12) : Statement (.lw rd rs1 imm) :=
  row_of (mask_encI _ 0x0#12 _ 0x0#5 _ 0x7#3 _ 0x0#5 _ 0x7F#7) (by simp [encI])
theorem lbu (rd : RegIdx) (rs1 : RegIdx) (imm : BitVec 12) : Statement (.lbu rd rs1 imm) :=
  row_of (mask_encI _ 0x0#12 _ 0x0#5 _ 0x7#3 _ 0x0#5 _ 0x7F#7) (by simp [encI])
theorem lhu (rd : RegIdx) (rs1 : RegIdx) (imm : BitVec 12) : Statement (.lhu rd rs1 imm) :=
  row_of (mask_encI _ 0x0#12 _ 0x0#5 _ 0x7#3 _ 0x0#5 _ 0x7F#7) (by simp [encI])
theorem sb (rs1 : RegIdx) (rs2 : RegIdx) (imm : BitVec 12) : Statement (.sb rs1 rs2 imm) :=
  row_of (mask_encR _ 0x0#7 _ 0x0#5 _ 0x0#5 _ 0x7#3 _ 0x0#5 _ 0x7F#7) (by simp [encR])
theorem sh (rs1 : RegIdx) (rs2 : RegIdx) (imm : BitVec 12) : Statement (.sh rs1 rs2 imm) :=
  row_of (mask_encR _ 0x0#7 _ 0x0#5 _ 0x0#5 _ 0x7#3 _ 0x0#5 _ 0x7F#7) (by simp [encR])
theorem sw (rs1 : RegIdx) (rs2 : RegIdx) (imm : BitVec 12) : Statement (.sw rs1 rs2 imm) :=
  row_of (mask_encR _ 0x0#7 _ 0x0#5 _ 0x0#5 _ 0x7#3 _ 0x0#5 _ 0x7F#7) (by simp [encR])
theorem addi (rd : RegIdx) (rs1 : RegIdx) (imm : BitVec 12) : Statement (.addi rd rs1 imm) :=
  row_of (mask_encI _ 0x0#12 _ 0x0#5 _ 0x7#3 _ 0x0#5 _ 0x7F#7) (by simp [encI])
theorem slti (rd : RegIdx) (rs1 : RegIdx) (imm : BitVec 12) : Statement (.slti rd rs1 imm) :=
  row_of (mask_encI _ 0x0#12 _ 0x0#5 _ 0x7#3 _ 0x0#5 _ 0x7F#7) (by simp [encI])
theorem sltiu (rd : RegIdx) (rs1 : RegIdx) (imm : BitVec 12) : Statement (.sltiu rd rs1 imm) :=
  row_of (mask_encI _ 0x0#12 _ 0x0#5 _ 0x7#3 _ 0x0#5 _ 0x7F#7) (by simp [encI])
theorem xori (rd : RegIdx) (rs1 : RegIdx) (imm : BitVec 12) : Statement (.xori rd rs1 imm) :=
  row_of (mask_encI _ 0x0#12 _ 0x0#5 _ 0x7#3 _ 0x0#5 _ 0x7F#7) (by simp [encI])
theorem ori (rd : RegIdx) (rs1 : RegIdx) (imm : BitVec 12) : Statement (.ori rd rs1 imm) :=
  row_of (mask_encI _ 0x0#12 _ 0x0#5 _ 0x7#3 _ 0x0#5 _ 0x7F#7) (by simp [encI])
theorem andi (rd : RegIdx) (rs1 : RegIdx) (imm : BitVec 12) : Statement (.andi rd rs1 imm) :=
  row_of (mask_encI _ 0x0#12 _ 0x0#5 _ 0x7#3 _ 0x0#5 _ 0x7F#7) (by simp [encI])
theorem slli (rd : RegIdx) (rs1 : RegIdx) (shamt : BitVec 5) : Statement (.slli rd rs1 shamt) :=
  row_of (mask_encR _ 0x7F#7 _ 0x0#5 _ 0x0#5 _ 0x7#3 _ 0x0#5 _ 0x7F#7) (by simp [encR])
theorem srli (rd : RegIdx) (rs1 : RegIdx) (shamt : BitVec 5) : Statement (.srli rd rs1 shamt) :=
  row_of (mask_encR _ 0x7F#7 _ 0x0#5 _ 0x0#5 _ 0x7#3 _ 0x0#5 _ 0x7F#7) (by simp [encR])
theorem srai (rd : RegIdx) (rs1 : RegIdx) (shamt : BitVec 5) : Statement (.srai rd rs1 shamt) :=
  row_of (mask_encR _ 0x7F#7 _ 0x0#5 _ 0x0#5 _ 0x7#3 _ 0x0#5 _ 0x7F#7) (by simp [encR])
theorem add (rd : RegIdx) (rs1 : RegIdx) (rs2 : RegIdx) : Statement (.add rd rs1 rs2) :=
  row_of (mask_encR _ 0x7F#7 _ 0x0#5 _ 0x0#5 _ 0x7#3 _ 0x0#5 _ 0x7F#7) (by simp [encR])
theorem sub (rd : RegIdx) (rs1 : RegIdx) (rs2 : RegIdx) : Statement (.sub rd rs1 rs2) :=
  row_of (mask_encR _ 0x7F#7 _ 0x0#5 _ 0x0#5 _ 0x7#3 _ 0x0#5 _ 0x7F#7) (by simp [encR])
theorem sll (rd : RegIdx) (rs1 : RegIdx) (rs2 : RegIdx) : Statement (.sll rd rs1 rs2) :=
  row_of (mask_encR _ 0x7F#7 _ 0x0#5 _ 0x0#5 _ 0x7#3 _ 0x0#5 _ 0x7F#7) (by simp [encR])
theorem slt (rd : RegIdx) (rs1 : RegIdx) (rs2 : RegIdx) : Statement (.slt rd rs1 rs2) :=
  row_of (mask_encR _ 0x7F#7 _ 0x0#5 _ 0x0#5 _ 0x7#3 _ 0x0#5 _ 0x7F#7) (by simp [encR])
theorem sltu (rd : RegIdx) (rs1 : RegIdx) (rs2 : RegIdx) : Statement (.sltu rd rs1 rs2) :=
  row_of (mask_encR _ 0x7F#7 _ 0x0#5 _ 0x0#5 _ 0x7#3 _ 0x0#5 _ 0x7F#7) (by simp [encR])
theorem xor (rd : RegIdx) (rs1 : RegIdx) (rs2 : RegIdx) : Statement (.xor rd rs1 rs2) :=
  row_of (mask_encR _ 0x7F#7 _ 0x0#5 _ 0x0#5 _ 0x7#3 _ 0x0#5 _ 0x7F#7) (by simp [encR])
theorem srl (rd : RegIdx) (rs1 : RegIdx) (rs2 : RegIdx) : Statement (.srl rd rs1 rs2) :=
  row_of (mask_encR _ 0x7F#7 _ 0x0#5 _ 0x0#5 _ 0x7#3 _ 0x0#5 _ 0x7F#7) (by simp [encR])
theorem sra (rd : RegIdx) (rs1 : RegIdx) (rs2 : RegIdx) : Statement (.sra rd rs1 rs2) :=
  row_of (mask_encR _ 0x7F#7 _ 0x0#5 _ 0x0#5 _ 0x7#3 _ 0x0#5 _ 0x7F#7) (by simp [encR])
theorem or (rd : RegIdx) (rs1 : RegIdx) (rs2 : RegIdx) : Statement (.or rd rs1 rs2) :=
  row_of (mask_encR _ 0x7F#7 _ 0x0#5 _ 0x0#5 _ 0x7#3 _ 0x0#5 _ 0x7F#7) (by simp [encR])
theorem and (rd : RegIdx) (rs1 : RegIdx) (rs2 : RegIdx) : Statement (.and rd rs1 rs2) :=
  row_of (mask_encR _ 0x7F#7 _ 0x0#5 _ 0x0#5 _ 0x7#3 _ 0x0#5 _ 0x7F#7) (by simp [encR])
theorem mul (rd : RegIdx) (rs1 : RegIdx) (rs2 : RegIdx) : Statement (.mul rd rs1 rs2) :=
  row_of (mask_encR _ 0x7F#7 _ 0x0#5 _ 0x0#5 _ 0x7#3 _ 0x0#5 _ 0x7F#7) (by simp [encR])
theorem mulh (rd : RegIdx) (rs1 : RegIdx) (rs2 : RegIdx) : Statement (.mulh rd rs1 rs2) :=
  row_of (mask_encR _ 0x7F#7 _ 0x0#5 _ 0x0#5 _ 0x7#3 _ 0x0#5 _ 0x7F#7) (by simp [encR])
theorem mulhsu (rd : RegIdx) (rs1 : RegIdx) (rs2 : RegIdx) : Statement (.mulhsu rd rs1 rs2) :=
  row_of (mask_encR _ 0x7F#7 _ 0x0#5 _ 0x0#5 _ 0x7#3 _ 0x0#5 _ 0x7F#7) (by simp [encR])
theorem mulhu (rd : RegIdx) (rs1 : RegIdx) (rs2 : RegIdx) : Statement (.mulhu rd rs1 rs2) :=
  row_of (mask_encR _ 0x7F#7 _ 0x0#5 _ 0x0#5 _ 0x7#3 _ 0x0#5 _ 0x7F#7) (by simp [encR])
theorem div (rd : RegIdx) (rs1 : RegIdx) (rs2 : RegIdx) : Statement (.div rd rs1 rs2) :=
  row_of (mask_encR _ 0x7F#7 _ 0x0#5 _ 0x0#5 _ 0x7#3 _ 0x0#5 _ 0x7F#7) (by simp [encR])
theorem divu (rd : RegIdx) (rs1 : RegIdx) (rs2 : RegIdx) : Statement (.divu rd rs1 rs2) :=
  row_of (mask_encR _ 0x7F#7 _ 0x0#5 _ 0x0#5 _ 0x7#3 _ 0x0#5 _ 0x7F#7) (by simp [encR])
theorem rem (rd : RegIdx) (rs1 : RegIdx) (rs2 : RegIdx) : Statement (.rem rd rs1 rs2) :=
  row_of (mask_encR _ 0x7F#7 _ 0x0#5 _ 0x0#5 _ 0x7#3 _ 0x0#5 _ 0x7F#7) (by simp [encR])
theorem remu (rd : RegIdx) (rs1 : RegIdx) (rs2 : RegIdx) : Statement (.remu rd rs1 rs2) :=
  row_of (mask_encR _ 0x7F#7 _ 0x0#5 _ 0x0#5 _ 0x7#3 _ 0x0#5 _ 0x7F#7) (by simp [encR])
theorem fence (fm : BitVec 4) (pred : BitVec 4) (succ : BitVec 4) (rs1 : RegIdx) (rd : RegIdx) : Statement (.fence fm pred succ rs1 rd) :=
  row_of (mask_encI _ 0x0#12 _ 0x0#5 _ 0x7#3 _ 0x0#5 _ 0x7F#7) (by simp [encI])
theorem fenceI (imm : BitVec 12) (rs1 : RegIdx) (rd : RegIdx) : Statement (.fenceI imm rs1 rd) :=
  row_of (mask_encI _ 0x0#12 _ 0x0#5 _ 0x7#3 _ 0x0#5 _ 0x7F#7) (by simp [encI])
theorem ecall : Statement (.ecall) :=
  rfl
theorem ebreak : Statement (.ebreak) :=
  rfl
theorem csrrw (rd : RegIdx) (csr : CsrIdx) (rs1 : RegIdx) : Statement (.csrrw rd csr rs1) :=
  row_of (mask_encI _ 0x0#12 _ 0x0#5 _ 0x7#3 _ 0x0#5 _ 0x7F#7) (by simp [encI])
theorem csrrs (rd : RegIdx) (csr : CsrIdx) (rs1 : RegIdx) : Statement (.csrrs rd csr rs1) :=
  row_of (mask_encI _ 0x0#12 _ 0x0#5 _ 0x7#3 _ 0x0#5 _ 0x7F#7) (by simp [encI])
theorem csrrc (rd : RegIdx) (csr : CsrIdx) (rs1 : RegIdx) : Statement (.csrrc rd csr rs1) :=
  row_of (mask_encI _ 0x0#12 _ 0x0#5 _ 0x7#3 _ 0x0#5 _ 0x7F#7) (by simp [encI])
theorem csrrwi (rd : RegIdx) (csr : CsrIdx) (zimm : BitVec 5) : Statement (.csrrwi rd csr zimm) :=
  row_of (mask_encI _ 0x0#12 _ 0x0#5 _ 0x7#3 _ 0x0#5 _ 0x7F#7) (by simp [encI])
theorem csrrsi (rd : RegIdx) (csr : CsrIdx) (zimm : BitVec 5) : Statement (.csrrsi rd csr zimm) :=
  row_of (mask_encI _ 0x0#12 _ 0x0#5 _ 0x7#3 _ 0x0#5 _ 0x7F#7) (by simp [encI])
theorem csrrci (rd : RegIdx) (csr : CsrIdx) (zimm : BitVec 5) : Statement (.csrrci rd csr zimm) :=
  row_of (mask_encI _ 0x0#12 _ 0x0#5 _ 0x7#3 _ 0x0#5 _ 0x7F#7) (by simp [encI])
theorem lrW (rd : RegIdx) (rs1 : RegIdx) (aq : Bool) (rl : Bool) : Statement (.lrW rd rs1 aq rl) :=
  row_of (mask_encA _ _ _ _ 0x1F#5 _ _) (by simp; decide)
theorem scW (rd : RegIdx) (rs1 : RegIdx) (rs2 : RegIdx) (aq : Bool) (rl : Bool) : Statement (.scW rd rs1 rs2 aq rl) :=
  row_of (mask_encA _ _ _ _ 0x0#5 _ _) (by simp; decide)
theorem amoswapW (rd : RegIdx) (rs1 : RegIdx) (rs2 : RegIdx) (aq : Bool) (rl : Bool) : Statement (.amoswapW rd rs1 rs2 aq rl) :=
  row_of (mask_encA _ _ _ _ 0x0#5 _ _) (by simp; decide)
theorem amoaddW (rd : RegIdx) (rs1 : RegIdx) (rs2 : RegIdx) (aq : Bool) (rl : Bool) : Statement (.amoaddW rd rs1 rs2 aq rl) :=
  row_of (mask_encA _ _ _ _ 0x0#5 _ _) (by simp; decide)
theorem amoxorW (rd : RegIdx) (rs1 : RegIdx) (rs2 : RegIdx) (aq : Bool) (rl : Bool) : Statement (.amoxorW rd rs1 rs2 aq rl) :=
  row_of (mask_encA _ _ _ _ 0x0#5 _ _) (by simp; decide)
theorem amoandW (rd : RegIdx) (rs1 : RegIdx) (rs2 : RegIdx) (aq : Bool) (rl : Bool) : Statement (.amoandW rd rs1 rs2 aq rl) :=
  row_of (mask_encA _ _ _ _ 0x0#5 _ _) (by simp; decide)
theorem amoorW (rd : RegIdx) (rs1 : RegIdx) (rs2 : RegIdx) (aq : Bool) (rl : Bool) : Statement (.amoorW rd rs1 rs2 aq rl) :=
  row_of (mask_encA _ _ _ _ 0x0#5 _ _) (by simp; decide)
theorem amominW (rd : RegIdx) (rs1 : RegIdx) (rs2 : RegIdx) (aq : Bool) (rl : Bool) : Statement (.amominW rd rs1 rs2 aq rl) :=
  row_of (mask_encA _ _ _ _ 0x0#5 _ _) (by simp; decide)
theorem amomaxW (rd : RegIdx) (rs1 : RegIdx) (rs2 : RegIdx) (aq : Bool) (rl : Bool) : Statement (.amomaxW rd rs1 rs2 aq rl) :=
  row_of (mask_encA _ _ _ _ 0x0#5 _ _) (by simp; decide)
theorem amominuW (rd : RegIdx) (rs1 : RegIdx) (rs2 : RegIdx) (aq : Bool) (rl : Bool) : Statement (.amominuW rd rs1 rs2 aq rl) :=
  row_of (mask_encA _ _ _ _ 0x0#5 _ _) (by simp; decide)
theorem amomaxuW (rd : RegIdx) (rs1 : RegIdx) (rs2 : RegIdx) (aq : Bool) (rl : Bool) : Statement (.amomaxuW rd rs1 rs2 aq rl) :=
  row_of (mask_encA _ _ _ _ 0x0#5 _ _) (by simp; decide)
theorem cAddi4spn (rd : CReg) (nzuimm : BitVec 10) : Statement (.cAddi4spn rd nzuimm) :=
  row_of_half (mask_encCIW _ _) rfl
theorem cLw (rd : CReg) (rs1 : CReg) (uimm : BitVec 7) : Statement (.cLw rd rs1 uimm) :=
  row_of_half (mask_encCL _ 0x7#3 _ 0x0#3 _ 0x0#3 _ 0x0#2 _ 0x0#3 _ 0x3#2) (by simp [encCL])
theorem cSw (rs1 : CReg) (rs2 : CReg) (uimm : BitVec 7) : Statement (.cSw rs1 rs2 uimm) :=
  row_of_half (mask_encCL _ 0x7#3 _ 0x0#3 _ 0x0#3 _ 0x0#2 _ 0x0#3 _ 0x3#2) (by simp [encCL])
theorem cNop (imm : BitVec 6) : Statement (.cNop imm) :=
  row_of_half (mask_encCI _ 0x7#3 _ 0x0#1 _ 0x1F#5 _ 0x0#5 _ 0x3#2) (by simp [encCI])
theorem cAddi (rd : RegIdx) (imm : BitVec 6) : Statement (.cAddi rd imm) :=
  row_of_half (mask_encCI _ 0x7#3 _ 0x0#1 _ 0x0#5 _ 0x0#5 _ 0x3#2) (by simp [encCI])
theorem cJal (off : BitVec 12) : Statement (.cJal off) :=
  row_of_half (mask_encCJ _ _) rfl
theorem cLi (rd : RegIdx) (imm : BitVec 6) : Statement (.cLi rd imm) :=
  row_of_half (mask_encCI _ 0x7#3 _ 0x0#1 _ 0x0#5 _ 0x0#5 _ 0x3#2) (by simp [encCI])
theorem cAddi16sp (nzimm : BitVec 10) : Statement (.cAddi16sp nzimm) :=
  row_of_half (mask_encCI _ 0x7#3 _ 0x0#1 _ 0x1F#5 _ 0x0#5 _ 0x3#2) (by simp [encCI])
theorem cLui (rd : RegIdx) (imm : BitVec 6) : Statement (.cLui rd imm) :=
  row_of_half (mask_encCI _ 0x7#3 _ 0x0#1 _ 0x0#5 _ 0x0#5 _ 0x3#2) (by simp [encCI])
theorem cSrli (rd : CReg) (shamt : BitVec 5) : Statement (.cSrli rd shamt) :=
  row_of_half (mask_encCI _ 0x7#3 _ 0x1#1 _ 0x18#5 _ 0x0#5 _ 0x3#2) (by simp [encCI]; revert rd; decide)
theorem cSrai (rd : CReg) (shamt : BitVec 5) : Statement (.cSrai rd shamt) :=
  row_of_half (mask_encCI _ 0x7#3 _ 0x1#1 _ 0x18#5 _ 0x0#5 _ 0x3#2) (by simp [encCI]; revert rd; decide)
theorem cAndi (rd : CReg) (imm : BitVec 6) : Statement (.cAndi rd imm) :=
  row_of_half (mask_encCI _ 0x7#3 _ 0x0#1 _ 0x18#5 _ 0x0#5 _ 0x3#2) (by simp [encCI]; revert rd; decide)
theorem cSub (rd : CReg) (rs2 : CReg) : Statement (.cSub rd rs2) :=
  row_of_half (mask_encCL _ 0x7#3 _ 0x7#3 _ 0x0#3 _ 0x3#2 _ 0x0#3 _ 0x3#2) (by simp [encCL])
theorem cXor (rd : CReg) (rs2 : CReg) : Statement (.cXor rd rs2) :=
  row_of_half (mask_encCL _ 0x7#3 _ 0x7#3 _ 0x0#3 _ 0x3#2 _ 0x0#3 _ 0x3#2) (by simp [encCL])
theorem cOr (rd : CReg) (rs2 : CReg) : Statement (.cOr rd rs2) :=
  row_of_half (mask_encCL _ 0x7#3 _ 0x7#3 _ 0x0#3 _ 0x3#2 _ 0x0#3 _ 0x3#2) (by simp [encCL])
theorem cAnd (rd : CReg) (rs2 : CReg) : Statement (.cAnd rd rs2) :=
  row_of_half (mask_encCL _ 0x7#3 _ 0x7#3 _ 0x0#3 _ 0x3#2 _ 0x0#3 _ 0x3#2) (by simp [encCL])
theorem cJ (off : BitVec 12) : Statement (.cJ off) :=
  row_of_half (mask_encCJ _ _) rfl
theorem cBeqz (rs1 : CReg) (off : BitVec 9) : Statement (.cBeqz rs1 off) :=
  row_of_half (mask_encCL _ 0x7#3 _ 0x0#3 _ 0x0#3 _ 0x0#2 _ 0x0#3 _ 0x3#2) (by simp [encCL])
theorem cBnez (rs1 : CReg) (off : BitVec 9) : Statement (.cBnez rs1 off) :=
  row_of_half (mask_encCL _ 0x7#3 _ 0x0#3 _ 0x0#3 _ 0x0#2 _ 0x0#3 _ 0x3#2) (by simp [encCL])
theorem cSlli (rd : RegIdx) (shamt : BitVec 5) : Statement (.cSlli rd shamt) :=
  row_of_half (mask_encCI _ 0x7#3 _ 0x1#1 _ 0x0#5 _ 0x0#5 _ 0x3#2) (by simp [encCI])
theorem cLwsp (rd : RegIdx) (uimm : BitVec 8) : Statement (.cLwsp rd uimm) :=
  row_of_half (mask_encCI _ 0x7#3 _ 0x0#1 _ 0x0#5 _ 0x0#5 _ 0x3#2) (by simp [encCI])
theorem cJr (rs1 : RegIdx) : Statement (.cJr rs1) :=
  row_of_half (mask_encCI _ 0x7#3 _ 0x1#1 _ 0x0#5 _ 0x1F#5 _ 0x3#2) (by simp [encCI])
theorem cMv (rd : RegIdx) (rs2 : RegIdx) : Statement (.cMv rd rs2) :=
  row_of_half (mask_encCI _ 0x7#3 _ 0x1#1 _ 0x0#5 _ 0x0#5 _ 0x3#2) (by simp [encCI])
theorem cEbreak : Statement (.cEbreak) :=
  rfl
theorem cJalr (rs1 : RegIdx) : Statement (.cJalr rs1) :=
  row_of_half (mask_encCI _ 0x7#3 _ 0x1#1 _ 0x0#5 _ 0x1F#5 _ 0x3#2) (by simp [encCI])
theorem cAdd (rd : RegIdx) (rs2 : RegIdx) : Statement (.cAdd rd rs2) :=
  row_of_half (mask_encCI _ 0x7#3 _ 0x1#1 _ 0x0#5 _ 0x0#5 _ 0x3#2) (by simp [encCI])
theorem cSwsp (rs2 : RegIdx) (uimm : BitVec 8) : Statement (.cSwsp rs2 uimm) :=
  row_of_half (mask_encCSS _ _) rfl

end EncodingRow

end Sys2Proof.Laws
end

