-- ==== Sys2Proof/Laws/Step.lean ====
section
/-! SUPPORT. What the basic changes keep, and everything a step can do. -/

namespace Sys2Proof.Machine

theorem le_clamp (a x : Dword) : a ≤ if x < a then a else x := by
  split
  · exact BitVec.le_refl _
  · rename_i h
    exact BitVec.not_lt.mp h

/-- A clock reading is never below the last one (R531). -/
theorem clockLast_le_clockReading (s : State) : s.env.clockLast ≤ clockReading s := le_clamp _ _

/-- What every basic change leaves alone. -/
structure Same (s u : State) : Prop where
  cfg : u.cfg = s.cfg
  regs : u.regs = s.regs
  pc : u.pc = s.pc
  instret : u.instret = s.instret
  status : u.status = s.status
  dbg : u.dbg = s.dbg
  t0Host : u.env.t0Host = s.env.t0Host
  clock : s.env.clockLast ≤ u.env.clockLast

theorem Effect.same {s u : State} (h : Effect s u) : Same s u := by
  cases h
  case drawClock => exact ⟨rfl, rfl, rfl, rfl, rfl, rfl, rfl, clockLast_le_clockReading s⟩
  all_goals exact ⟨rfl, rfl, rfl, rfl, rfl, rfl, rfl, BitVec.le_refl _⟩

theorem Effects.same {s u : State} (h : Effects s u) : Same s u := by
  induction h with
  | refl => exact ⟨rfl, rfl, rfl, rfl, rfl, rfl, rfl, BitVec.le_refl _⟩
  | snoc _ h ih =>
    have hs := h.same
    exact ⟨hs.cfg.trans ih.cfg, hs.regs.trans ih.regs, hs.pc.trans ih.pc, hs.instret.trans ih.instret,
      hs.status.trans ih.status, hs.dbg.trans ih.dbg, hs.t0Host.trans ih.t0Host,
      BitVec.le_trans ih.clock hs.clock⟩

/-- A canonical CSR storage stays one under a write of an index (R38, R40). -/
theorem csrWrite_wf {s : State} (h : csrmemWf s.csrmem) (c : CsrIdx) (v : Word) :
    csrmemWf (csrWrite c v s).csrmem := by
  rw [csrWrite_csrmem]
  by_cases hc : c ∈ counterCsrs
  · rw [if_pos hc]; exact h
  · rw [if_neg hc]
    refine ⟨sparseSet_wf h.1 _ _, fun e he => ?_⟩
    rcases mem_sparseSet he with he | he
    · exact h.2 e he
    · rw [he.1]
      exact ⟨c.isLt, by rwa [BitVec.ofNat_toNat, BitVec.setWidth_eq]⟩

theorem Effect.inv {s u : State} (h : Effect s u) (hi : Inv s) : Inv u := by
  obtain ⟨h1, h2, h3, h4, h5, h6, h7, h8, h9, h10, h11, h12, h13⟩ := hi
  cases h with
  | drawClock =>
    exact ⟨h1, h2, h3, h4, h5, h6, h7, h8, h9, BitVec.le_trans h10 (clockLast_le_clockReading s), h11, h12, h13⟩
  | popKbd =>
    refine ⟨h1, h2, h3, h4, h5, h6, h7, ?_, h9, h10, h11, h12, h13⟩
    have : s.dev.kbdQ.tail.length ≤ s.dev.kbdQ.length := by rw [List.length_tail]; omega
    exact this.trans h8
  | clearKbd => exact ⟨h1, h2, h3, h4, h5, h6, h7, Nat.zero_le _, h9, h10, h11, h12, h13⟩
  | fbWrite o n v =>
    refine ⟨h1, h2, h3, writeBytes_wf h4 _ _, ?_, h6, h7, h8, h9, h10, h11, h12, h13⟩
    by_cases ho : o ≤ fbSize
    · exact writeBytes_lt h5 (by rw [List.length_take]; omega)
    · have : (leBytes n v).take (fbSize - o) = [] := by rw [show fbSize - o = 0 by omega]; rfl
      rw [fbWrite_dev]
      dsimp only
      rw [this]
      exact h5
  | writeRam a bs hb =>
    exact ⟨h1, writeBytes_wf h2 _ _, writeBytes_lt h3 hb, h4, h5, h6, h7, h8,
      fun hv => h9 ((Bool.and_eq_true _ _).mp hv).1, h10, h11, h12, h13⟩
  | snoop a n =>
    exact ⟨h1, h2, h3, h4, h5, h6, h7, h8, fun hv => h9 ((Bool.and_eq_true _ _).mp hv).1, h10, h11, h12, h13⟩
  | setResv a ha => exact ⟨h1, h2, h3, h4, h5, h6, h7, h8, fun _ => ha, h10, h11, h12, h13⟩
  | clearResv => exact ⟨h1, h2, h3, h4, h5, h6, h7, h8, fun hv => Bool.noConfusion hv, h10, h11, h12, h13⟩
  | csrWrite c v => exact ⟨h1, h2, h3, h4, h5, csrWrite_wf h6 c v, h7, h8, h9, h10, h11, h12, h13⟩
  | drawRead => exact ⟨h1, h2, h3, h4, h5, h6, h7, h8, h9, h10, h11, h12, h13⟩
  | drawMmap len r => exact ⟨h1, h2, h3, h4, h5, h6, h7, h8, h9, h10, h11, h12, h13⟩
  | emit bs => exact ⟨h1, h2, h3, h4, h5, h6, h7, h8, h9, h10, h11, h12, h13⟩
  | setBrk v => exact ⟨h1, h2, h3, h4, h5, h6, h7, h8, h9, h10, h11, h12, h13⟩
  | popUart => exact ⟨h1, h2, h3, h4, h5, h6, h7, h8, h9, h10, h11, h12, h13⟩
  | setQuit => exact ⟨h1, h2, h3, h4, h5, h6, h7, h8, h9, h10, h11, h12, h13⟩

theorem Effects.inv {s u : State} (h : Effects s u) (hi : Inv s) : Inv u := by
  induction h with
  | refl => exact hi
  | snoc _ h ih => exact h.inv ih

/-- Retiring keeps the invariant, whatever register was written. -/
theorem Inv.retire {s : State} (h : Inv s) (rd : RegIdx) (v n : Word) : Inv (retire n (writeReg rd v s)) :=
  ⟨h.cfg, h.mem, h.memEnd, h.fb, h.fbEnd, h.csr, retire_regs_zero n _, h.kbd, h.resv, h.clock, h.snapshots, h.trace,
    h.snapshotX0⟩

/-- Ending a run keeps the invariant. -/
theorem Inv.status {s : State} (h : Inv s) (r : RunStatus) : Inv { s with status := r } :=
  ⟨h.cfg, h.mem, h.memEnd, h.fb, h.fbEnd, h.csr, h.x0, h.kbd, h.resv, h.clock, h.snapshots, h.trace, h.snapshotX0⟩

theorem ringPush_length {α : Type} (cap : Nat) (x : α) (r : List α) : (ringPush cap x r).length ≤ cap := by
  simp only [ringPush, List.length_take]
  omega

theorem mem_ringPush {α : Type} {cap : Nat} {x y : α} {r : List α} (h : y ∈ ringPush cap x r) : y = x ∨ y ∈ r :=
  List.mem_cons.mp (List.mem_of_mem_take h)

/-- The rings are written on a retiring step only. -/
theorem recordStep_running {pre post : State} (e : Encoding) (i : Instr) (h : post.status = .running) :
    recordStep pre e i post = { post with dbg :=
      { snapshots := ringPush snapshotMax (snapshotOf pre) post.dbg.snapshots
        trace := ringPush traceMax (traceOf pre e i) post.dbg.trace } } := by
  simp only [recordStep, if_pos h]

theorem recordStep_ended {pre post : State} (e : Encoding) (i : Instr) (h : post.status ≠ .running) :
    recordStep pre e i post = post := by
  simp only [recordStep, if_neg h]

/-- Recording keeps the invariant. -/
theorem Inv.record {pre post : State} (h : Inv post) (hp : pre.regs[0] = 0#32) (e : Encoding) (i : Instr) :
    Inv (recordStep pre e i post) := by
  by_cases hr : post.status = .running
  · rw [recordStep_running e i hr]
    refine ⟨h.cfg, h.mem, h.memEnd, h.fb, h.fbEnd, h.csr, h.x0, h.kbd, h.resv, h.clock, ringPush_length _ _ _,
      ringPush_length _ _ _, fun p hm => ?_⟩
    rcases mem_ringPush hm with rfl | hm
    · exact hp
    · exact h.snapshotX0 p hm
  · rw [recordStep_ended e i hr]; exact h

/-! ### Fetch -/

/-- A halfword of RAM at an even address. -/
theorem fetchHalf_ok {s : State} {a : Word} (h0 : a.getLsbD 0 = false) (h1 : a.toNat + 2 ≤ s.cfg.memSize) :
    fetchHalf s a = .ok (ramHalf s a.toNat) := by
  simp only [fetchHalf, h0, Bool.false_eq_true, if_false, if_pos h1]
  rfl

theorem fetchHalf_odd {s : State} {a : Word} (h0 : a.getLsbD 0 = true) :
    fetchHalf s a = .error (.misalignedFetch, a) := by
  simp only [fetchHalf, h0, if_true]

theorem fetchHalf_out {s : State} {a : Word} (h0 : a.getLsbD 0 = false) (h1 : s.cfg.memSize < a.toNat + 2) :
    fetchHalf s a = .error (.fetchOutOfRange, a) := by
  simp only [fetchHalf, h0, Bool.false_eq_true, if_false, if_neg (Nat.not_le.mpr h1)]

/-- Two bytes further is as even as before. -/
theorem even_add_two {a : Word} (h : a.getLsbD 0 = false) : (a + 2#32).getLsbD 0 = false := by
  simp only [BitVec.getLsbD, Nat.testBit_zero] at h ⊢
  rw [BitVec.toNat_add]
  simp only [decide_eq_false_iff_not] at h ⊢
  simp only [BitVec.toNat_ofNat]
  omega

theorem fetch_half {s : State} (h0 : s.pc.getLsbD 0 = false) (h1 : s.pc.toNat + 2 ≤ s.cfg.memSize)
    (hq : (ramHalf s s.pc.toNat).extractLsb' 0 2 ≠ 3#2) : fetch s = .ok (.half (ramHalf s s.pc.toNat)) := by
  have hl : isLong (ramHalf s s.pc.toNat) = false := by simpa [isLong, quadF] using hq
  simp only [fetch, fetchHalf_ok h0 h1, hl, Bool.false_eq_true, if_false]

theorem fetch_word {s : State} (h0 : s.pc.getLsbD 0 = false) (h1 : s.pc.toNat + 2 ≤ s.cfg.memSize)
    (hq : (ramHalf s s.pc.toNat).extractLsb' 0 2 = 3#2) (h2 : (s.pc + 2#32).toNat + 2 ≤ s.cfg.memSize) :
    fetch s = .ok (.word (ramHalf s (s.pc + 2#32).toNat ++ ramHalf s s.pc.toNat)) := by
  have hl : isLong (ramHalf s s.pc.toNat) = true := by simpa [isLong, quadF] using hq
  simp only [fetch, fetchHalf_ok h0 h1, hl, if_true, fetchHalf_ok (even_add_two h0) h2]

theorem fetch_word_out {s : State} (h0 : s.pc.getLsbD 0 = false) (h1 : s.pc.toNat + 2 ≤ s.cfg.memSize)
    (hq : (ramHalf s s.pc.toNat).extractLsb' 0 2 = 3#2) (h2 : s.cfg.memSize < (s.pc + 2#32).toNat + 2) :
    fetch s = .fatal .fetchOutOfRange (s.pc + 2#32) := by
  have hl : isLong (ramHalf s s.pc.toNat) = true := by simpa [isLong, quadF] using hq
  simp only [fetch, fetchHalf_ok h0 h1, hl, if_true, fetchHalf_out (even_add_two h0) h2]

/-- What a fetch that gives an encoding has fetched. -/
theorem fetch_ok {s : State} {e : Encoding} (h : fetch s = .ok e) :
    s.pc.getLsbD 0 = false ∧ s.pc.toNat + 2 ≤ s.cfg.memSize ∧
      (((ramHalf s s.pc.toNat).extractLsb' 0 2 ≠ 3#2 ∧ e = .half (ramHalf s s.pc.toNat)) ∨
       ((ramHalf s s.pc.toNat).extractLsb' 0 2 = 3#2 ∧ (s.pc + 2#32).toNat + 2 ≤ s.cfg.memSize ∧
        e = .word (ramHalf s (s.pc + 2#32).toNat ++ ramHalf s s.pc.toNat))) := by
  cases h0 : s.pc.getLsbD 0
  swap
  · simp [fetch, fetchHalf_odd h0] at h
  by_cases h1 : s.pc.toNat + 2 ≤ s.cfg.memSize
  swap
  · simp [fetch, fetchHalf_out h0 (Nat.not_le.mp h1)] at h
  refine ⟨rfl, h1, ?_⟩
  by_cases hq : (ramHalf s s.pc.toNat).extractLsb' 0 2 = 3#2
  · by_cases h2 : (s.pc + 2#32).toNat + 2 ≤ s.cfg.memSize
    · rw [fetch_word h0 h1 hq h2] at h
      exact .inr ⟨hq, h2, by cases h; rfl⟩
    · rw [fetch_word_out h0 h1 hq (Nat.not_le.mp h2)] at h
      cases h
  · rw [fetch_half h0 h1 hq] at h
    exact .inl ⟨hq, by cases h; rfl⟩

/-! ### The step -/

/-- The step of a running state with no quit pending. -/
theorem step_running {s : State} (hr : s.status = .running) (hq : s.dev.quit = false) : step s = runFetched s := by
  simp only [step, hr, if_true, hq, Bool.false_eq_true, if_false]

theorem step_decoded {s t : State} {e : Encoding} {i : Instr} (hr : s.status = .running) (hq : s.dev.quit = false)
    (hf : fetch s = .ok e) (hd : decodeEncoding e = some i) (he : exec i s = .next t) :
    step s = .next (recordStep s e i t) := by
  simp only [step_running hr hq, runFetched, hf, runEncoding, hd, he, recordResult]

theorem step_fatal {s : State} {r : HaltReason} {a : Word} (hr : s.status = .running) (hq : s.dev.quit = false)
    (hf : fetch s = .fatal r a) : step s = .next { s with status := .halted r a } := by
  simp only [step_running hr hq, runFetched, hf]
  rfl

theorem step_illegal {s : State} {e : Encoding} (hr : s.status = .running) (hq : s.dev.quit = false)
    (hf : fetch s = .ok e) (hd : decodeEncoding e = none) :
    step s = .next { s with status := .halted .illegalInstruction e.raw } := by
  simp only [step_running hr hq, runFetched, hf, runEncoding, hd]
  rfl

/-- Everything a step that answers a next state did. -/
inductive StepCases (s : State) : State → Prop where
  | quit (h : s.dev.quit = true) : StepCases s { s with status := .quit }
  | halts (r : HaltReason) (a : Word) : StepCases s { s with status := .halted r a }
  | exits (c : Word) : StepCases s { s with status := .exited c }
  | retires {e : Encoding} {i : Instr} {u : State} (hf : fetch s = .ok e) (hd : decodeEncoding e = some i)
      (hu : Effects s u) (rd : RegIdx) (v n : Word) (hx : exec i s = .next (retire n (writeReg rd v u))) :
      StepCases s (recordStep s e i (retire n (writeReg rd v u)))

theorem step_cases {s t : State} (h : step s = .next t) : s.status = .running ∧ StepCases s t := by
  by_cases hr : s.status = .running
  swap
  · simp [step, hr] at h
  refine ⟨hr, ?_⟩
  cases hq : s.dev.quit
  swap
  · simp only [step, hr, if_true, hq, quitRun, Host.Outcome.next.injEq] at h
    rw [← h]; exact .quit hq
  cases hf : fetch s with
  | fatal r a =>
    rw [step_fatal hr hq hf] at h
    cases h
    exact .halts r a
  | ok e =>
    cases hd : decodeEncoding e with
    | none =>
      rw [step_illegal hr hq hf hd] at h
      cases h
      exact .halts _ _
    | some i =>
      have ha := exec_answer i s
      generalize hx : exec i s = res at ha
      cases ha with
      | halts r a =>
        rw [step_decoded hr hq hf hd hx, recordStep_ended _ _ (by simp)] at h
        cases h
        exact .halts r a
      | exits c =>
        rw [step_decoded hr hq hf hd hx, recordStep_ended _ _ (by simp)] at h
        cases h
        exact .exits c
      | retires hu rd v n =>
        rw [step_decoded hr hq hf hd hx] at h
        cases h
        exact .retires hf hd hu rd v n hx

/-- A running state has a step. -/
theorem step_next {s : State} (hr : s.status = .running) : ∃ t, step s = .next t := by
  cases hq : s.dev.quit
  swap
  · exact ⟨{ s with status := .quit }, by simp only [step, hr, if_true, hq, quitRun]⟩
  cases hf : fetch s with
  | fatal r a => exact ⟨_, step_fatal hr hq hf⟩
  | ok e =>
    cases hd : decodeEncoding e with
    | none => exact ⟨_, step_illegal hr hq hf hd⟩
    | some i =>
      obtain ⟨t, hx⟩ := exec_next i s
      exact ⟨_, step_decoded hr hq hf hd hx⟩

end Sys2Proof.Machine
end

