-- ==== Sys2Proof/Tests/Slice0.lean ====
section
/-! SUPPORT. Tests. The expected results are those of spec/95_test_vectors.md (each theorem names its vectors), words written
out from the layouts of 30_encoding.md, and hand calculation; after them a witness for the hypotheses of each statement. -/

namespace Sys2Proof.Tests

open Sys2Proof.Machine

/-! ### WellFormed: one ill-formed term for each check, each refused -/

theorem test_wf_jump_offset_odd : (Instr.jal 1#5 3#21).wf = false ∧ (Instr.cJal 1#12).wf = false ∧
    (Instr.cJ 1#12).wf = false := by decide
theorem test_wf_branch_offset_odd :
    (Instr.beq 1#5 2#5 1#13).wf = false ∧ (Instr.bne 1#5 2#5 1#13).wf = false ∧
    (Instr.blt 1#5 2#5 1#13).wf = false ∧ (Instr.bge 1#5 2#5 1#13).wf = false ∧
    (Instr.bltu 1#5 2#5 1#13).wf = false ∧ (Instr.bgeu 1#5 2#5 1#13).wf = false ∧
    (Instr.cBeqz 0#3 1#9).wf = false ∧ (Instr.cBnez 0#3 1#9).wf = false := by decide
theorem test_wf_addi4spn : (Instr.cAddi4spn 0#3 0#10).wf = false ∧ (Instr.cAddi4spn 0#3 6#10).wf = false := by decide
theorem test_wf_scaled_offset : (Instr.cLw 0#3 0#3 2#7).wf = false ∧ (Instr.cSw 0#3 0#3 1#7).wf = false ∧
    (Instr.cLwsp 1#5 2#8).wf = false ∧ (Instr.cSwsp 1#5 2#8).wf = false := by decide
theorem test_wf_addi16sp : (Instr.cAddi16sp 0#10).wf = false ∧ (Instr.cAddi16sp 8#10).wf = false := by decide
theorem test_wf_c_lui : (Instr.cLui 2#5 1#6).wf = false ∧ (Instr.cLui 5#5 0#6).wf = false := by decide
theorem test_wf_register_zero :
    (Instr.cAddi 0#5 1#6).wf = false ∧ (Instr.cLwsp 0#5 4#8).wf = false ∧ (Instr.cJr 0#5).wf = false ∧
    (Instr.cJalr 0#5).wf = false ∧ (Instr.cMv 1#5 0#5).wf = false ∧ (Instr.cAdd 1#5 0#5).wf = false := by decide

/-! ### Decoding: one word for each constructor -/

/-- One word of each layout, bit by bit from R122 and R131 to R132, R137 to R139. -/
theorem test_decode_bit_by_bit :
    decodeTableWord 32 0b0000000_00111_00110_000_00101_0110011 = some (.add 5#5 6#5 7#5) ∧
    decodeTableWord 32 0b0000001_00111_00110_100_00101_0110011 = some (.div 5#5 6#5 7#5) ∧
    decodeTableWord 32 0b100000000001_00110_000_00101_0010011 = some (.addi 5#5 6#5 0x801#12) ∧
    decodeTableWord 32 0b1000000_00111_00110_010_00001_0100011 = some (.sw 6#5 7#5 0x801#12) ∧
    decodeTableWord 32 0b1_000010_00111_00110_000_0001_0_1100011 = some (.beq 6#5 7#5 0x1042#13) ∧
    decodeTableWord 32 0b0_000010_00111_00110_001_0001_1_1100011 = some (.bne 6#5 7#5 0x0842#13) ∧
    decodeTableWord 32 0b10000000000000000001_00101_0110111 = some (.lui 5#5 0x80001#20) ∧
    decodeTableWord 32 0b1_0000000010_0_00000001_00101_1101111 = some (.jal 5#5 0x101004#21) ∧
    decodeTableWord 32 0b0_0000000010_1_00000000_00101_1101111 = some (.jal 5#5 0x000804#21) ∧
    decodeTableWord 32 0b00011_1_0_00111_00110_010_00101_0101111 = some (.scW 5#5 6#5 7#5 true false) ∧
    decodeTableWord 32 0b1000_0011_0011_00001_000_00010_0001111 = some (.fence 8#4 3#4 3#4 1#5 2#5) ∧
    decodeTableWord 32 0b001101000000_11111_101_00000_1110011 = some (.csrrwi 0#5 0x340#12 31#5) ∧
    decodeTableWord 16 0b000_01_0010_1_0_010_00 = some (.cAddi4spn 2#3 0x094#10) ∧
    decodeTableWord 16 0b010_101_001_0_1_010_00 = some (.cLw 2#3 1#3 0x68#7) ∧
    decodeTableWord 16 0b000_1_00101_00010_01 = some (.cAddi 5#5 0x22#6) ∧
    decodeTableWord 16 0b011_1_00010_1_0_10_1_01 = some (.cAddi16sp 0x330#10) ∧
    decodeTableWord 16 0b101_1_0_01_1_0_1_001_0_01 = some (.cJ 0xD82#12) ∧
    decodeTableWord 16 0b110_1_01_010_10_01_1_01 = some (.cBeqz 2#3 0x1AA#9) ∧
    decodeTableWord 16 0b100_0_11_001_10_010_01 = some (.cOr 1#3 2#3) ∧
    decodeTableWord 16 0b010_1_00101_001_10_10 = some (.cLwsp 5#5 0xA4#8) ∧
    decodeTableWord 16 0b110_0101_10_00101_10 = some (.cSwsp 5#5 0x94#8) := by decide

/-- T41. -/
theorem test_decode_integer :
    [0xFFFFF2B7, 0x00001297, 0xFFF30293, 0xFFF32293, 0xFFF33293, 0xFFF34293, 0x7FF36293, 0x80037293, 0x01F31293, 0x01F35293,
      0x41F35293].map (decodeTableWord 32) =
    [some (.lui 5#5 0xFFFFF#20), some (.auipc 5#5 1#20), some (.addi 5#5 6#5 0xFFF#12), some (.slti 5#5 6#5 0xFFF#12),
      some (.sltiu 5#5 6#5 0xFFF#12), some (.xori 5#5 6#5 0xFFF#12), some (.ori 5#5 6#5 0x7FF#12),
      some (.andi 5#5 6#5 0x800#12), some (.slli 5#5 6#5 31#5), some (.srli 5#5 6#5 31#5),
      some (.srai 5#5 6#5 31#5)] := by decide
theorem test_decode_register :
    [0x007302B3, 0x407302B3, 0x007312B3, 0x007322B3, 0x007332B3, 0x006342B3, 0x007352B3, 0x407352B3, 0x007362B3,
      0x007372B3].map (decodeTableWord 32) =
    [some (.add 5#5 6#5 7#5), some (.sub 5#5 6#5 7#5), some (.sll 5#5 6#5 7#5), some (.slt 5#5 6#5 7#5),
      some (.sltu 5#5 6#5 7#5), some (.xor 5#5 6#5 6#5), some (.srl 5#5 6#5 7#5), some (.sra 5#5 6#5 7#5),
      some (.or 5#5 6#5 7#5), some (.and 5#5 6#5 7#5)] := by decide
/-- T42. -/
theorem test_decode_control :
    [0x800000EF, 0xFFDFF06F, 0xFFF30067, 0x00730863, 0xF07310E3, 0x00734463, 0x00735463, 0x00736463, 0x7E737FE3,
      0x80737063].map (decodeTableWord 32) =
    [some (.jal 1#5 0x100000#21), some (.jal 0#5 0x1FFFFC#21), some (.jalr 0#5 6#5 0xFFF#12), some (.beq 6#5 7#5 16#13),
      some (.bne 6#5 7#5 0x1F00#13), some (.blt 6#5 7#5 8#13), some (.bge 6#5 7#5 8#13), some (.bltu 6#5 7#5 8#13),
      some (.bgeu 6#5 7#5 4094#13), some (.bgeu 6#5 7#5 0x1000#13)] := by decide
/-- T43. -/
theorem test_decode_memory :
    [0x00330283, 0x00231283, 0xFFC32283, 0x00334283, 0x00235283, 0x007300A3, 0x00731123, 0xFE732F23].map
      (decodeTableWord 32) =
    [some (.lb 5#5 6#5 3#12), some (.lh 5#5 6#5 2#12), some (.lw 5#5 6#5 0xFFC#12), some (.lbu 5#5 6#5 3#12),
      some (.lhu 5#5 6#5 2#12), some (.sb 6#5 7#5 1#12), some (.sh 6#5 7#5 2#12), some (.sw 6#5 7#5 0xFFE#12)] := by decide
/-- T44. -/
theorem test_decode_muldiv :
    [0x027302B3, 0x027312B3, 0x027322B3, 0x027332B3, 0x027342B3, 0x027352B3, 0x027362B3, 0x027372B3].map
      (decodeTableWord 32) =
    [some (.mul 5#5 6#5 7#5), some (.mulh 5#5 6#5 7#5), some (.mulhsu 5#5 6#5 7#5), some (.mulhu 5#5 6#5 7#5),
      some (.div 5#5 6#5 7#5), some (.divu 5#5 6#5 7#5), some (.rem 5#5 6#5 7#5), some (.remu 5#5 6#5 7#5)] := by decide
/-- T45, T30. -/
theorem test_decode_atomic :
    [0x160322AF, 0x187322AF, 0x087322AF, 0x007322AF, 0x207322AF, 0x607322AF, 0x407322AF, 0x807322AF, 0xA07322AF, 0xC07322AF,
      0xE07322AF].map (decodeTableWord 32) =
    [some (.lrW 5#5 6#5 true true), some (.scW 5#5 6#5 7#5 false false), some (.amoswapW 5#5 6#5 7#5 false false),
      some (.amoaddW 5#5 6#5 7#5 false false), some (.amoxorW 5#5 6#5 7#5 false false),
      some (.amoandW 5#5 6#5 7#5 false false), some (.amoorW 5#5 6#5 7#5 false false),
      some (.amominW 5#5 6#5 7#5 false false), some (.amomaxW 5#5 6#5 7#5 false false),
      some (.amominuW 5#5 6#5 7#5 false false), some (.amomaxuW 5#5 6#5 7#5 false false)] := by decide
/-- T46, T30. -/
theorem test_decode_system :
    [0x0FF0000F, 0x8330000F, 0x0100000F, 0x0000100F, 0x00000073, 0x00100073, 0x340312F3, 0xC00022F3, 0x340332F3, 0x340FD073,
      0x340062F3, 0x340272F3].map (decodeTableWord 32) =
    [some (.fence 0#4 15#4 15#4 0#5 0#5), some (.fence 8#4 3#4 3#4 0#5 0#5), some (.fence 0#4 1#4 0#4 0#5 0#5),
      some (.fenceI 0#12 0#5 0#5), some .ecall, some .ebreak, some (.csrrw 5#5 0x340#12 6#5), some (.csrrs 5#5 0xC00#12 0#5),
      some (.csrrc 5#5 0x340#12 6#5), some (.csrrwi 0#5 0x340#12 31#5), some (.csrrsi 5#5 0x340#12 0#5),
      some (.csrrci 5#5 0x340#12 4#5)] := by decide
/-- T47b, quadrants 0 and 2. -/
theorem test_decode_compressed_02 :
    [0x1FE4, 0x5FFC, 0xC044, 0x028E, 0x0082, 0x50FE, 0x8082, 0x829A, 0x8006, 0x9002, 0x9282, 0x929A, 0x9006,
      0xDFFE].map (decodeTableWord 16) =
    [some (.cAddi4spn 1#3 1020#10), some (.cLw 7#3 7#3 124#7), some (.cSw 0#3 1#3 4#7), some (.cSlli 5#5 3#5),
      some (.cSlli 1#5 0#5), some (.cLwsp 1#5 252#8), some (.cJr 1#5), some (.cMv 5#5 6#5), some (.cMv 0#5 1#5),
      some .cEbreak, some (.cJalr 5#5), some (.cAdd 5#5 6#5), some (.cAdd 0#5 1#5), some (.cSwsp 31#5 252#8)] := by decide
/-- T47b, quadrant 1. -/
theorem test_decode_compressed_1 :
    [0x0001, 0x12FD, 0x3001, 0x5501, 0x7101, 0x617D, 0x72FD, 0x8011, 0x847D, 0x9841, 0x8C05, 0x8C25, 0x8C45, 0x8C65, 0xBFFD,
      0xAFFD, 0xC401, 0xF001, 0xECFD].map (decodeTableWord 16) =
    [some (.cNop 0#6), some (.cAddi 5#5 0x3F#6), some (.cJal 0x800#12), some (.cLi 10#5 0x20#6), some (.cAddi16sp 0x200#10),
      some (.cAddi16sp 496#10), some (.cLui 5#5 0x3F#6), some (.cSrli 0#3 4#5), some (.cSrai 0#3 31#5),
      some (.cAndi 0#3 0x30#6), some (.cSub 0#3 1#3), some (.cXor 0#3 1#3), some (.cOr 0#3 1#3), some (.cAnd 0#3 1#3),
      some (.cJ 0xFFE#12), some (.cJ 2046#12), some (.cBeqz 0#3 8#9), some (.cBnez 0#3 0x100#9),
      some (.cBnez 1#3 254#9)] := by decide
/-- T47b: the expansions. -/
theorem test_expansions :
    [0x0020#16, 0x4044#16, 0xC044#16, 0x0001#16, 0x12FD#16, 0x3001#16, 0x5501#16, 0x7101#16, 0x72FD#16, 0x8011#16, 0x847D#16,
      0x9841#16, 0x8C05#16, 0x8C25#16].map expandHalf =
    [some 0x00810413#32, some 0x00442483#32, some 0x00942223#32, some 0x00000013#32, some 0xFFF28293#32, some 0x801FF0EF#32,
      some 0xFE000513#32, some 0xE0010113#32, some 0xFFFFF2B7#32, some 0x00445413#32, some 0x41F45413#32, some 0xFF047413#32,
      some 0x40940433#32, some 0x00944433#32] ∧
    [0x8C45#16, 0x8C65#16, 0xBFFD#16, 0xC401#16, 0xF001#16, 0x028E#16, 0x42B2#16, 0x8082#16, 0x829A#16, 0x9002#16, 0x9282#16,
      0x929A#16, 0xC616#16].map expandHalf =
    [some 0x00946433#32, some 0x00947433#32, some 0xFFFFF06F#32, some 0x00040463#32, some 0xF00410E3#32, some 0x00329293#32,
      some 0x00C12283#32, some 0x00008067#32, some 0x006002B3#32, some 0x00100073#32, some 0x000280E7#32, some 0x006282B3#32,
      some 0x00512623#32] := by decide
/-- T47c and T30: reserved encodings are refused, by name. -/
theorem test_illegal :
    [0x0000, 0x0004, 0x2000, 0xE000, 0x8000, 0x6101, 0x6081, 0x6001, 0x9101, 0x9C01, 0x9C41, 0x1002, 0x1282, 0x2002, 0x4002,
      0x8002].map (decodeTableWord 16) = List.replicate 16 none ∧
    [0x101322AF, 0x0000200F, 0x00200073, 0x00100173, 0x0000000B, 0x0203D293, 0x000000F3, 0x30200073].map
      (decodeTableWord 32) = List.replicate 8 none ∧
    decodeBytes [0x01#8, 0x61#8] = .error (.illegalHalf 0x6101#16) ∧
    decodeBytes [0x0B#8, 0#8, 0#8, 0#8] = .error (.illegalWord 0x0000000B#32) ∧
    decodeBytes [0x13#8, 0#8, 0#8] = .error .tooShort := by decide

/-! ### States for one step -/

/-- One piece of a start or end state of 95_test_vectors.md. -/
inductive Put where
  | reg (r : RegIdx) (v : Word)
  | pc (a : Word)
  | word (a : Nat) (v : Word)
  | half (a : Nat) (v : Half)
  | byte (a : Nat) (v : Byte)
  | instret (n : Dword)
  | csr (c : CsrIdx) (v : Word)
  | resv (a : Word)
  | noResv
  | uartIn (bs : List Byte)
  | out (bs : List Byte)
  | kbd (es : List Word)
  | fb (o : Nat) (v : Word)
  | quit
  | brk (v : Word)
  /-- Supply a clock sample, and the state after it was drawn. -/
  | clock (v : Dword)
  | drawn (v : Dword)
  /-- Supply an answer to `HostRead` or `HostMmap`, and the state after it was taken. -/
  | answer (bs : List Byte)
  | offer (b : Option Word)
  | taken (regions : List (Word × Word))
  | ts64

/-- A state with that piece put in. -/
def put (s : State) : Put → State
  | .reg r v => writeReg r v s
  | .pc a => { s with pc := a }
  | .word a v => { s with mem := writeBytes s.mem a (leBytes .word v) }
  | .half a v => { s with mem := writeBytes s.mem a (leBytes .half (v.zeroExtend 32)) }
  | .byte a v => { s with mem := writeBytes s.mem a [v] }
  | .instret n => { s with instret := n }
  | .csr c v => { s with csrmem := sparseSet s.csrmem c.toNat v }
  | .resv a => { s with resvValid := true, resvAddr := a }
  | .noResv => { s with resvValid := false }
  | .uartIn bs => { s with dev := { s.dev with uartIn := bs } }
  | .out bs => { s with env := { s.env with out := bs } }
  | .kbd es => { s with dev := { s.dev with kbdQ := es } }
  | .fb o v => { s with dev := { s.dev with fb := writeBytes s.dev.fb o (leBytes .word v) } }
  | .quit => { s with dev := { s.dev with quit := true } }
  | .brk v => { s with env := { s.env with brk := v } }
  | .clock v => { s with env := { s.env with clockSamples := [v] } }
  | .drawn v => { s with env := { s.env with clockSamples := [], clockLast := v, draws := 1 } }
  | .answer bs => { s with env := { s.env with hostReads := [bs] } }
  | .offer b => { s with env := { s.env with mmapAnswers := [b] } }
  | .taken rs => { s with env := { s.env with hostReads := [], mmapAnswers := [], mmapRegions := rs, draws := 1 } }
  | .ts64 => { s with cfg := { s.cfg with timespec := .ts64 } }

/-- The state right after reset with those pieces put in. -/
def start (ps : List Put) : State := ps.foldl put State.reset

/-- The state an outcome gives; the state after reset where it gives none. -/
def stateOf : Result → State
  | .next t => t
  | .fault _ => State.reset
  | .refused _ => State.reset

/-- The outcome is a next state. -/
def isNext : Result → Bool
  | .next _ => true
  | .fault _ => false
  | .refused _ => false

/-- Two states agree in everything but the rings. -/
def agree (s t : State) : Bool :=
  decide (s.cfg = t.cfg) && decide (s.regs = t.regs) && decide (s.pc = t.pc) && decide (s.instret = t.instret) &&
  decide (s.csrmem = t.csrmem) && decide (s.resvValid = t.resvValid) && decide (s.resvAddr = t.resvAddr) &&
  decide (s.mem = t.mem) && decide (s.dev = t.dev) && decide (s.env = t.env) && decide (s.status = t.status)

/-- The step from `s` answers `t`, the rings apart. -/
def goes (s t : State) : Bool := isNext (step s) && agree (stateOf (step s)) t

/-- From the start state `ps` the step answers Next with the changes `qs` and no other. -/
def runs (ps qs : List Put) : Bool := goes (start ps) (start (ps ++ qs))

/-- From the start state `ps` the step halts. -/
def halts (ps : List Put) (r : HaltReason) (a : Word) : Bool :=
  goes (start ps) { start ps with status := .halted r a }

/-- From the start state `ps` the step exits. -/
def exits (ps : List Put) (c : Word) : Bool := goes (start ps) { start ps with status := .exited c }

/-! ### Integer computational (T41) -/

/-- Vector 41-1. -/
theorem test_lui :
    runs [.pc 0x100#32, .word 0x100 0xFFFFF2B7#32]
      [.reg 5#5 0xFFFFF000#32, .pc 0x104#32, .instret 1#64] := by decide
/-- Vector 41-3. -/
theorem test_auipc :
    runs [.pc 0x100#32, .word 0x100 0xFFFFF297#32]
      [.reg 5#5 0xFFFFF100#32, .pc 0x104#32, .instret 1#64] := by decide
/-- Vectors 41-5, 41-6. -/
theorem test_addi :
    runs [.pc 0x100#32, .reg 6#5 0x7FFFFFFF#32, .word 0x100 0x00130293#32]
      [.reg 5#5 0x80000000#32, .pc 0x104#32, .instret 1#64] ∧
    runs [.pc 0x100#32, .reg 5#5 0x1#32, .word 0x100 0x00728013#32]
      [.reg 5#5 0x1#32, .pc 0x104#32, .instret 1#64] := by decide
/-- Vector 41-7. -/
theorem test_slti :
    runs [.pc 0x100#32, .reg 6#5 0x80000000#32, .word 0x100 0xFFF32293#32]
      [.reg 5#5 0x1#32, .pc 0x104#32, .instret 1#64] := by decide
/-- Vector 41-9. -/
theorem test_sltiu :
    runs [.pc 0x100#32, .reg 6#5 0xFFFFFFFE#32, .word 0x100 0xFFF33293#32]
      [.reg 5#5 0x1#32, .pc 0x104#32, .instret 1#64] := by decide
/-- Vector 41-11. -/
theorem test_xori :
    runs [.pc 0x100#32, .reg 6#5 0xF0F0F0F#32, .word 0x100 0xFFF34293#32]
      [.reg 5#5 0xF0F0F0F0#32, .pc 0x104#32, .instret 1#64] := by decide
/-- Vector 41-12. -/
theorem test_ori :
    runs [.pc 0x100#32, .reg 6#5 0x80000000#32, .word 0x100 0x7FF36293#32]
      [.reg 5#5 0x800007FF#32, .pc 0x104#32, .instret 1#64] := by decide
/-- Vector 41-13. -/
theorem test_andi :
    runs [.pc 0x100#32, .reg 6#5 0xFFFFFFFF#32, .word 0x100 0x80037293#32]
      [.reg 5#5 0xFFFFF800#32, .pc 0x104#32, .instret 1#64] := by decide
/-- Vector 41-14. -/
theorem test_slli :
    runs [.pc 0x100#32, .reg 6#5 0x3#32, .word 0x100 0x01F31293#32]
      [.reg 5#5 0x80000000#32, .pc 0x104#32, .instret 1#64] := by decide
/-- Vector 41-15. -/
theorem test_srli :
    runs [.pc 0x100#32, .reg 6#5 0x80000000#32, .word 0x100 0x01F35293#32]
      [.reg 5#5 0x1#32, .pc 0x104#32, .instret 1#64] := by decide
/-- Vectors 41-16, 41-17. -/
theorem test_srai :
    runs [.pc 0x100#32, .reg 6#5 0x80000000#32, .word 0x100 0x41F35293#32]
      [.reg 5#5 0xFFFFFFFF#32, .pc 0x104#32, .instret 1#64] ∧
    runs [.pc 0x100#32, .reg 6#5 0x80000000#32, .word 0x100 0x40035293#32]
      [.reg 5#5 0x80000000#32, .pc 0x104#32, .instret 1#64] := by decide
/-- Vector 41-18. -/
theorem test_add :
    runs [.pc 0x100#32, .reg 6#5 0xFFFFFFFF#32, .reg 7#5 0x2#32, .word 0x100 0x007302B3#32]
      [.reg 5#5 0x1#32, .pc 0x104#32, .instret 1#64] := by decide
/-- Vectors 41-19, 41-20. -/
theorem test_sub :
    runs [.pc 0x100#32, .reg 6#5 0x0#32, .reg 7#5 0x1#32, .word 0x100 0x407302B3#32]
      [.reg 5#5 0xFFFFFFFF#32, .pc 0x104#32, .instret 1#64] ∧
    runs [.pc 0x100#32, .reg 6#5 0x80000000#32, .reg 7#5 0x1#32, .word 0x100 0x407302B3#32]
      [.reg 5#5 0x7FFFFFFF#32, .pc 0x104#32, .instret 1#64] := by decide
/-- Vectors 41-21, 41-22. -/
theorem test_sll :
    runs [.pc 0x100#32, .reg 6#5 0x1#32, .reg 7#5 0x21#32, .word 0x100 0x007312B3#32]
      [.reg 5#5 0x2#32, .pc 0x104#32, .instret 1#64] ∧
    runs [.pc 0x100#32, .reg 6#5 0x1234#32, .reg 7#5 0x20#32, .word 0x100 0x007312B3#32]
      [.reg 5#5 0x1234#32, .pc 0x104#32, .instret 1#64] := by decide
/-- Vector 41-23. -/
theorem test_slt :
    runs [.pc 0x100#32, .reg 6#5 0x80000000#32, .reg 7#5 0x7FFFFFFF#32, .word 0x100 0x007322B3#32]
      [.reg 5#5 0x1#32, .pc 0x104#32, .instret 1#64] := by decide
/-- Vector 41-24. -/
theorem test_sltu :
    runs [.pc 0x100#32, .reg 6#5 0x80000000#32, .reg 7#5 0x7FFFFFFF#32, .word 0x100 0x007332B3#32]
      [.reg 5#5 0x0#32, .pc 0x104#32, .instret 1#64] := by decide
/-- Vector 41-26. -/
theorem test_xor :
    runs [.pc 0x100#32, .reg 6#5 0xDEADBEEF#32, .word 0x100 0x006342B3#32]
      [.reg 5#5 0x0#32, .pc 0x104#32, .instret 1#64] := by decide
/-- Vector 41-27. -/
theorem test_srl :
    runs [.pc 0x100#32, .reg 6#5 0xF0000000#32, .reg 7#5 0xFFFFFFE4#32, .word 0x100 0x007352B3#32]
      [.reg 5#5 0xF000000#32, .pc 0x104#32, .instret 1#64] := by decide
/-- Vector 41-28. -/
theorem test_sra :
    runs [.pc 0x100#32, .reg 6#5 0xF0000000#32, .reg 7#5 0x4#32, .word 0x100 0x407352B3#32]
      [.reg 5#5 0xFF000000#32, .pc 0x104#32, .instret 1#64] := by decide
/-- Vector 41-29. -/
theorem test_or :
    runs [.pc 0x100#32, .reg 6#5 0xF0F0#32, .reg 7#5 0xF0F#32, .word 0x100 0x007362B3#32]
      [.reg 5#5 0xFFFF#32, .pc 0x104#32, .instret 1#64] := by decide
/-- Vector 41-30. -/
theorem test_and :
    runs [.pc 0x100#32, .reg 6#5 0xFF00FF00#32, .reg 7#5 0xFF00FF0#32, .word 0x100 0x007372B3#32]
      [.reg 5#5 0xF000F00#32, .pc 0x104#32, .instret 1#64] := by decide

/-! ### Control transfer (T42) -/

/-- Vectors 42-1, 42-3. -/
theorem test_jal :
    runs [.pc 0x100#32, .word 0x100 0x008000EF#32]
      [.reg 1#5 0x104#32, .pc 0x108#32, .instret 1#64] ∧
    runs [.pc 0x100#32, .word 0x100 0x800000EF#32]
      [.reg 1#5 0x104#32, .pc 0xFFF00100#32, .instret 1#64] := by decide
/-- Vectors 42-4, 42-5, 42-6. -/
theorem test_jalr :
    runs [.pc 0x100#32, .reg 6#5 0x200#32, .word 0x100 0x003300E7#32]
      [.reg 1#5 0x104#32, .pc 0x202#32, .instret 1#64] ∧
    runs [.pc 0x100#32, .reg 6#5 0x300#32, .word 0x100 0x00030367#32]
      [.reg 6#5 0x104#32, .pc 0x300#32, .instret 1#64] ∧
    runs [.pc 0x100#32, .reg 6#5 0x200#32, .word 0x100 0xFFF30067#32]
      [.pc 0x1FE#32, .instret 1#64] := by decide
/-- Vectors 42-7, 42-8. -/
theorem test_beq :
    runs [.pc 0x100#32, .reg 6#5 0x5#32, .reg 7#5 0x5#32, .word 0x100 0x00730863#32]
      [.pc 0x110#32, .instret 1#64] ∧
    runs [.pc 0x100#32, .reg 6#5 0x5#32, .reg 7#5 0x6#32, .word 0x100 0x00730863#32]
      [.pc 0x104#32, .instret 1#64] := by decide
/-- Vector 42-9. -/
theorem test_bne :
    runs [.pc 0x100#32, .reg 6#5 0x5#32, .reg 7#5 0x6#32, .word 0x100 0xF07310E3#32]
      [.pc 0x0#32, .instret 1#64] := by decide
/-- Vector 42-10. -/
theorem test_blt :
    runs [.pc 0x100#32, .reg 6#5 0xFFFFFFFF#32, .reg 7#5 0x1#32, .word 0x100 0x00734463#32]
      [.pc 0x108#32, .instret 1#64] := by decide
/-- Vectors 42-11, 42-12. -/
theorem test_bge :
    runs [.pc 0x100#32, .reg 6#5 0x80000000#32, .reg 7#5 0x7FFFFFFF#32, .word 0x100 0x00735463#32]
      [.pc 0x104#32, .instret 1#64] ∧
    runs [.pc 0x100#32, .reg 6#5 0x80000000#32, .word 0x100 0x00635463#32]
      [.pc 0x108#32, .instret 1#64] := by decide
/-- Vector 42-13. -/
theorem test_bltu :
    runs [.pc 0x100#32, .reg 6#5 0xFFFFFFFF#32, .reg 7#5 0x1#32, .word 0x100 0x00736463#32]
      [.pc 0x104#32, .instret 1#64] := by decide
/-- Vectors 42-14, 42-15. -/
theorem test_bgeu :
    runs [.pc 0x100#32, .reg 6#5 0xFFFFFFFF#32, .reg 7#5 0x1#32, .word 0x100 0x7E737FE3#32]
      [.pc 0x10FE#32, .instret 1#64] ∧
    runs [.pc 0x2000#32, .reg 6#5 0xFFFFFFFF#32, .reg 7#5 0x1#32, .word 0x2000 0x80737063#32]
      [.pc 0x1000#32, .instret 1#64] := by decide

/-! ### Loads and stores (T43) -/

/-- Vectors 43-1, 43-2. -/
theorem test_lb :
    runs [.pc 0x100#32, .reg 6#5 0x1000#32, .word 0x1000 0x8081FF7F#32, .word 0x100 0x00030283#32]
      [.reg 5#5 0x7F#32, .pc 0x104#32, .instret 1#64] ∧
    runs [.pc 0x100#32, .reg 6#5 0x1000#32, .word 0x1000 0x8081FF7F#32, .word 0x100 0x00330283#32]
      [.reg 5#5 0xFFFFFF80#32, .pc 0x104#32, .instret 1#64] := by decide
/-- Vector 43-3. -/
theorem test_lbu :
    runs [.pc 0x100#32, .reg 6#5 0x1000#32, .word 0x1000 0x8081FF7F#32, .word 0x100 0x00334283#32]
      [.reg 5#5 0x80#32, .pc 0x104#32, .instret 1#64] := by decide
/-- Vector 43-4. -/
theorem test_lh :
    runs [.pc 0x100#32, .reg 6#5 0x1000#32, .word 0x1000 0x8081FF7F#32, .word 0x100 0x00231283#32]
      [.reg 5#5 0xFFFF8081#32, .pc 0x104#32, .instret 1#64] := by decide
/-- Vector 43-5. -/
theorem test_lhu :
    runs [.pc 0x100#32, .reg 6#5 0x1000#32, .word 0x1000 0x8081FF7F#32, .word 0x100 0x00235283#32]
      [.reg 5#5 0x8081#32, .pc 0x104#32, .instret 1#64] := by decide
/-- Vectors 43-7, 43-9, 43-10. -/
theorem test_lw :
    runs [.pc 0x100#32, .reg 6#5 0x1000#32, .word 0x1000 0x44332211#32, .word 0x1004 0x88776655#32, .word 0x100 0x00132283#32]
      [.reg 5#5 0x55443322#32, .pc 0x104#32, .instret 1#64] ∧
    runs [.pc 0x100#32, .reg 6#5 0xFFFFC#32, .word 0xFFFFC 0x1020304#32, .word 0x100 0x00032283#32]
      [.reg 5#5 0x1020304#32, .pc 0x104#32, .instret 1#64] ∧
    halts [.pc 0x100#32, .reg 6#5 0xFFFFE#32, .word 0x100 0x00032283#32] .outOfRangeLoad 0xFFFFE#32 := by decide
/-- Vectors 43-13, 43-18. -/
theorem test_sb :
    runs [.pc 0x100#32, .reg 6#5 0x1000#32, .reg 7#5 0x12345678#32, .word 0x1000 0x0#32, .word 0x100 0x007300A3#32]
      [.pc 0x104#32, .word 0x1000 0x7800#32, .instret 1#64] ∧
    runs [.pc 0x100#32, .reg 6#5 0x10000000#32, .reg 7#5 0x41#32, .word 0x100 0x00730023#32]
      [.pc 0x104#32, .out [0x41#8], .instret 1#64] := by decide
/-- Vector 43-14. -/
theorem test_sh :
    runs [.pc 0x100#32, .reg 6#5 0x1000#32, .reg 7#5 0x12345678#32, .word 0x1000 0x0#32, .word 0x100 0x00731123#32]
      [.pc 0x104#32, .word 0x1000 0x56780000#32, .instret 1#64] := by decide
/-- Vectors 43-16, 43-17. -/
theorem test_sw :
    runs [.pc 0x100#32, .reg 6#5 0x1000#32, .reg 7#5 0xAABBCCDD#32, .word 0x100 0x007321A3#32]
      [.pc 0x104#32, .word 0x1000 0xDD000000#32, .word 0x1004 0xAABBCC#32, .instret 1#64] ∧
    halts [.pc 0x100#32, .reg 6#5 0x100000#32, .reg 7#5 0x1#32, .word 0x100 0x00732023#32] .outOfRangeStore 0x100000#32 := by decide
/-- Vector 43-12. -/
theorem test_load_to_x0 :
    halts [.pc 0x100#32, .reg 6#5 0x20000000#32, .word 0x100 0x00032003#32] .outOfRangeLoad 0x20000000#32 := by decide

/-! ### Multiply and divide (T44) -/

/-- Vectors 44-1, 44-2. -/
theorem test_mul :
    runs [.pc 0x100#32, .reg 6#5 0xFFFFFFFF#32, .reg 7#5 0xFFFFFFFF#32, .word 0x100 0x027302B3#32]
      [.reg 5#5 0x1#32, .pc 0x104#32, .instret 1#64] ∧
    runs [.pc 0x100#32, .reg 6#5 0x10000#32, .reg 7#5 0x10000#32, .word 0x100 0x027302B3#32]
      [.reg 5#5 0x0#32, .pc 0x104#32, .instret 1#64] := by decide
/-- Vectors 44-3, 44-5. -/
theorem test_mulh :
    runs [.pc 0x100#32, .reg 6#5 0x80000000#32, .reg 7#5 0x80000000#32, .word 0x100 0x027312B3#32]
      [.reg 5#5 0x40000000#32, .pc 0x104#32, .instret 1#64] ∧
    runs [.pc 0x100#32, .reg 6#5 0x80000000#32, .reg 7#5 0x7FFFFFFF#32, .word 0x100 0x027312B3#32]
      [.reg 5#5 0xC0000000#32, .pc 0x104#32, .instret 1#64] := by decide
/-- Vectors 44-6, 44-7. -/
theorem test_mulhsu :
    runs [.pc 0x100#32, .reg 6#5 0xFFFFFFFF#32, .reg 7#5 0xFFFFFFFF#32, .word 0x100 0x027322B3#32]
      [.reg 5#5 0xFFFFFFFF#32, .pc 0x104#32, .instret 1#64] ∧
    runs [.pc 0x100#32, .reg 6#5 0x80000000#32, .reg 7#5 0xFFFFFFFF#32, .word 0x100 0x027322B3#32]
      [.reg 5#5 0x80000000#32, .pc 0x104#32, .instret 1#64] := by decide
/-- Vectors 44-8, 44-9. -/
theorem test_mulhu :
    runs [.pc 0x100#32, .reg 6#5 0xFFFFFFFF#32, .reg 7#5 0xFFFFFFFF#32, .word 0x100 0x027332B3#32]
      [.reg 5#5 0xFFFFFFFE#32, .pc 0x104#32, .instret 1#64] ∧
    runs [.pc 0x100#32, .reg 6#5 0x80000000#32, .reg 7#5 0x2#32, .word 0x100 0x027332B3#32]
      [.reg 5#5 0x1#32, .pc 0x104#32, .instret 1#64] := by decide
/-- Vectors 44-11, 44-12, 44-13. -/
theorem test_div :
    runs [.pc 0x100#32, .reg 6#5 0x7#32, .reg 7#5 0xFFFFFFFE#32, .word 0x100 0x027342B3#32]
      [.reg 5#5 0xFFFFFFFD#32, .pc 0x104#32, .instret 1#64] ∧
    runs [.pc 0x100#32, .reg 6#5 0x5#32, .reg 7#5 0x0#32, .word 0x100 0x027342B3#32]
      [.reg 5#5 0xFFFFFFFF#32, .pc 0x104#32, .instret 1#64] ∧
    runs [.pc 0x100#32, .reg 6#5 0x80000000#32, .reg 7#5 0xFFFFFFFF#32, .word 0x100 0x027342B3#32]
      [.reg 5#5 0x80000000#32, .pc 0x104#32, .instret 1#64] := by decide
/-- Vectors 44-14, 44-15. -/
theorem test_divu :
    runs [.pc 0x100#32, .reg 6#5 0xFFFFFFFF#32, .reg 7#5 0x2#32, .word 0x100 0x027352B3#32]
      [.reg 5#5 0x7FFFFFFF#32, .pc 0x104#32, .instret 1#64] ∧
    runs [.pc 0x100#32, .reg 6#5 0x5#32, .reg 7#5 0x0#32, .word 0x100 0x027352B3#32]
      [.reg 5#5 0xFFFFFFFF#32, .pc 0x104#32, .instret 1#64] := by decide
/-- Vectors 44-16, 44-18, 44-19. -/
theorem test_rem :
    runs [.pc 0x100#32, .reg 6#5 0xFFFFFFF9#32, .reg 7#5 0x2#32, .word 0x100 0x027362B3#32]
      [.reg 5#5 0xFFFFFFFF#32, .pc 0x104#32, .instret 1#64] ∧
    runs [.pc 0x100#32, .reg 6#5 0xFFFFFFFB#32, .reg 7#5 0x0#32, .word 0x100 0x027362B3#32]
      [.reg 5#5 0xFFFFFFFB#32, .pc 0x104#32, .instret 1#64] ∧
    runs [.pc 0x100#32, .reg 6#5 0x80000000#32, .reg 7#5 0xFFFFFFFF#32, .word 0x100 0x027362B3#32]
      [.reg 5#5 0x0#32, .pc 0x104#32, .instret 1#64] := by decide
/-- Vectors 44-20, 44-21. -/
theorem test_remu :
    runs [.pc 0x100#32, .reg 6#5 0xFFFFFFFF#32, .reg 7#5 0xA#32, .word 0x100 0x027372B3#32]
      [.reg 5#5 0x5#32, .pc 0x104#32, .instret 1#64] ∧
    runs [.pc 0x100#32, .reg 6#5 0x5#32, .reg 7#5 0x0#32, .word 0x100 0x027372B3#32]
      [.reg 5#5 0x5#32, .pc 0x104#32, .instret 1#64] := by decide

/-! ### Atomics (T45) -/

/-- Vector 45-1. -/
theorem test_lr :
    runs [.pc 0x100#32, .reg 6#5 0x2000#32, .word 0x2000 0x7#32, .word 0x100 0x100322AF#32]
      [.reg 5#5 0x7#32, .pc 0x104#32, .resv 0x2000#32, .instret 1#64] := by decide
/-- Vectors 45-2, 45-3, 45-4. -/
theorem test_sc :
    runs [.pc 0x100#32, .reg 6#5 0x2000#32, .reg 7#5 0x63#32, .word 0x2000 0x7#32, .resv 0x2000#32, .word 0x100 0x187322AF#32]
      [.reg 5#5 0x0#32, .pc 0x104#32, .word 0x2000 0x63#32, .noResv, .instret 1#64] ∧
    runs [.pc 0x100#32, .reg 6#5 0x2000#32, .reg 7#5 0x63#32, .word 0x2000 0x7#32, .word 0x100 0x187322AF#32]
      [.reg 5#5 0x1#32, .pc 0x104#32, .instret 1#64] ∧
    runs [.pc 0x100#32, .reg 6#5 0x2000#32, .reg 7#5 0x63#32, .word 0x2000 0x7#32, .resv 0x2004#32, .word 0x100 0x187322AF#32]
      [.reg 5#5 0x1#32, .pc 0x104#32, .noResv, .instret 1#64] := by decide
/-- Vectors 45-5, 45-6, 45-7. -/
theorem test_store_clears_reservation :
    runs [.pc 0x100#32, .reg 6#5 0x2000#32, .reg 7#5 0x1#32, .resv 0x2000#32, .word 0x100 0x007301A3#32]
      [.pc 0x104#32, .word 0x2000 0x1000000#32, .noResv, .instret 1#64] ∧
    runs [.pc 0x100#32, .reg 6#5 0x2000#32, .reg 7#5 0x1#32, .resv 0x2000#32, .word 0x100 0x00730223#32]
      [.pc 0x104#32, .word 0x2004 0x1#32, .instret 1#64] ∧
    runs [.pc 0x100#32, .reg 6#5 0x2000#32, .reg 7#5 0x1#32, .resv 0x2000#32, .word 0x100 0xFE732F23#32]
      [.pc 0x104#32, .word 0x1FFC 0x10000#32, .noResv, .instret 1#64] := by decide
/-- Vectors 45-8, 45-18. -/
theorem test_amoswap :
    runs [.pc 0x100#32, .reg 6#5 0x2000#32, .reg 7#5 0x55#32, .word 0x2000 0x7#32, .word 0x100 0x087322AF#32]
      [.reg 5#5 0x7#32, .pc 0x104#32, .word 0x2000 0x55#32, .instret 1#64] ∧
    halts [.pc 0x100#32, .reg 6#5 0x100000#32, .reg 7#5 0x1#32, .word 0x100 0x087322AF#32] .outOfRangeLoad 0x100000#32 := by decide
/-- Vectors 45-9, 45-17. -/
theorem test_amoadd :
    runs [.pc 0x100#32, .reg 6#5 0x2000#32, .reg 7#5 0x1#32, .word 0x2000 0xFFFFFFFF#32, .word 0x100 0x007322AF#32]
      [.reg 5#5 0xFFFFFFFF#32, .pc 0x104#32, .word 0x2000 0x0#32, .instret 1#64] ∧
    runs [.pc 0x100#32, .reg 6#5 0x2000#32, .reg 7#5 0x1#32, .word 0x2000 0x1#32, .resv 0x2000#32, .word 0x100 0x007322AF#32]
      [.reg 5#5 0x1#32, .pc 0x104#32, .word 0x2000 0x2#32, .noResv, .instret 1#64] := by decide
/-- Vector 45-10. -/
theorem test_amoxor :
    runs [.pc 0x100#32, .reg 6#5 0x2000#32, .reg 7#5 0xFF#32, .word 0x2000 0xF#32, .word 0x100 0x207322AF#32]
      [.reg 5#5 0xF#32, .pc 0x104#32, .word 0x2000 0xF0#32, .instret 1#64] := by decide
/-- Vector 45-11. -/
theorem test_amoand :
    runs [.pc 0x100#32, .reg 6#5 0x2000#32, .reg 7#5 0xFF#32, .word 0x2000 0xF0F#32, .word 0x100 0x607322AF#32]
      [.reg 5#5 0xF0F#32, .pc 0x104#32, .word 0x2000 0xF#32, .instret 1#64] := by decide
/-- Vector 45-12. -/
theorem test_amoor :
    runs [.pc 0x100#32, .reg 6#5 0x2000#32, .reg 7#5 0xF0#32, .word 0x2000 0xF#32, .word 0x100 0x407322AF#32]
      [.reg 5#5 0xF#32, .pc 0x104#32, .word 0x2000 0xFF#32, .instret 1#64] := by decide
/-- Vector 45-13. -/
theorem test_amomin :
    runs [.pc 0x100#32, .reg 6#5 0x2000#32, .reg 7#5 0xFFFFFFFF#32, .word 0x2000 0x1#32, .word 0x100 0x807322AF#32]
      [.reg 5#5 0x1#32, .pc 0x104#32, .word 0x2000 0xFFFFFFFF#32, .instret 1#64] := by decide
/-- Vector 45-14. -/
theorem test_amomax :
    runs [.pc 0x100#32, .reg 6#5 0x2000#32, .reg 7#5 0xFFFFFFFF#32, .word 0x2000 0x1#32, .word 0x100 0xA07322AF#32]
      [.reg 5#5 0x1#32, .pc 0x104#32, .instret 1#64] := by decide
/-- Vector 45-15. -/
theorem test_amominu :
    runs [.pc 0x100#32, .reg 6#5 0x2000#32, .reg 7#5 0xFFFFFFFF#32, .word 0x2000 0x1#32, .word 0x100 0xC07322AF#32]
      [.reg 5#5 0x1#32, .pc 0x104#32, .instret 1#64] := by decide
/-- Vector 45-16. -/
theorem test_amomaxu :
    runs [.pc 0x100#32, .reg 6#5 0x2000#32, .reg 7#5 0xFFFFFFFF#32, .word 0x2000 0x1#32, .word 0x100 0xE07322AF#32]
      [.reg 5#5 0x1#32, .pc 0x104#32, .word 0x2000 0xFFFFFFFF#32, .instret 1#64] := by decide

/-! ### Fences and CSRs (T46) -/

/-- Vector 46-1. -/
theorem test_fence :
    runs [.pc 0x100#32, .word 0x100 0x0FF0000F#32]
      [.pc 0x104#32, .instret 1#64] := by decide
/-- Vector 46-2. -/
theorem test_fence_i :
    runs [.pc 0x100#32, .word 0x100 0x0000100F#32]
      [.pc 0x104#32, .instret 1#64] := by decide
/-- Vector 46-3. -/
theorem test_ebreak :
    halts [.pc 0x100#32, .word 0x100 0x00100073#32] .breakpoint 0x100#32 := by decide
/-- Vectors 46-4, 46-14. -/
theorem test_csrrw :
    runs [.pc 0x100#32, .reg 6#5 0xABCD#32, .csr 0x340#12 0x11#32, .word 0x100 0x340312F3#32]
      [.reg 5#5 0x11#32, .pc 0x104#32, .csr 0x340#12 0xABCD#32, .instret 1#64] ∧
    runs [.pc 0x100#32, .reg 6#5 0x1234#32, .instret 7#64, .word 0x100 0xC02312F3#32]
      [.reg 5#5 0x7#32, .pc 0x104#32, .instret 8#64] := by decide
/-- Vectors 46-5, 46-6. -/
theorem test_csrrs :
    runs [.pc 0x100#32, .csr 0x340#12 0x11#32, .word 0x100 0x340022F3#32]
      [.reg 5#5 0x11#32, .pc 0x104#32, .instret 1#64] ∧
    runs [.pc 0x100#32, .reg 6#5 0xF00#32, .csr 0x340#12 0x11#32, .word 0x100 0x340322F3#32]
      [.reg 5#5 0x11#32, .pc 0x104#32, .csr 0x340#12 0xF11#32, .instret 1#64] := by decide
/-- Vector 46-7. -/
theorem test_csrrc :
    runs [.pc 0x100#32, .reg 6#5 0xF#32, .csr 0x340#12 0xFF#32, .word 0x100 0x340332F3#32]
      [.reg 5#5 0xFF#32, .pc 0x104#32, .csr 0x340#12 0xF0#32, .instret 1#64] := by decide
/-- Vector 46-8. -/
theorem test_csrrwi :
    runs [.pc 0x100#32, .word 0x100 0x340FD073#32]
      [.pc 0x104#32, .csr 0x340#12 0x1F#32, .instret 1#64] := by decide
/-- Vector 46-9. -/
theorem test_csrrsi :
    runs [.pc 0x100#32, .csr 0x340#12 0x5#32, .word 0x100 0x340062F3#32]
      [.reg 5#5 0x5#32, .pc 0x104#32, .instret 1#64] := by decide
/-- Vector 46-10. -/
theorem test_csrrci :
    runs [.pc 0x100#32, .csr 0x340#12 0x5#32, .word 0x100 0x340272F3#32]
      [.reg 5#5 0x5#32, .pc 0x104#32, .csr 0x340#12 0x1#32, .instret 1#64] := by decide
/-- Vectors 46-11, 46-12, 46-13. -/
theorem test_counter_csrs :
    runs [.pc 0x100#32, .instret 41#64, .word 0x100 0xC00022F3#32]
      [.reg 5#5 0x29#32, .pc 0x104#32, .instret 42#64] ∧
    runs [.pc 0x100#32, .instret 4294967299#64, .word 0x100 0xC82022F3#32]
      [.reg 5#5 0x1#32, .pc 0x104#32, .instret 4294967300#64] ∧
    runs [.pc 0x100#32, .instret 4294967299#64, .word 0x100 0xB02022F3#32]
      [.reg 5#5 0x3#32, .pc 0x104#32, .instret 4294967300#64] := by decide

/-! ### Compressed (T47) -/

/-- Vectors 47-1, 47-2. -/
theorem test_c_addi4spn :
    runs [.pc 0x0#32, .reg 2#5 0x1000#32, .half 0x0 0x0020#16]
      [.reg 8#5 0x1008#32, .pc 0x2#32, .instret 1#64] ∧
    runs [.pc 0x0#32, .reg 2#5 0x1000#32, .half 0x0 0x1FE4#16]
      [.reg 9#5 0x13FC#32, .pc 0x2#32, .instret 1#64] := by decide
/-- Vector 47-3. -/
theorem test_c_lw :
    runs [.pc 0x100#32, .reg 8#5 0x2000#32, .word 0x2004 0xCAFEF00D#32, .half 0x100 0x4044#16]
      [.reg 9#5 0xCAFEF00D#32, .pc 0x102#32, .instret 1#64] := by decide
/-- Vector 47-4. -/
theorem test_c_sw :
    runs [.pc 0x100#32, .reg 8#5 0x2000#32, .reg 9#5 0x11223344#32, .half 0x100 0xC044#16]
      [.pc 0x102#32, .word 0x2004 0x11223344#32, .instret 1#64] := by decide
/-- Vector 47-5. -/
theorem test_c_nop :
    runs [.pc 0x100#32, .half 0x100 0x0001#16]
      [.pc 0x102#32, .instret 1#64] := by decide
/-- Vector 47-6. -/
theorem test_c_addi :
    runs [.pc 0x100#32, .reg 5#5 0x0#32, .half 0x100 0x12FD#16]
      [.reg 5#5 0xFFFFFFFF#32, .pc 0x102#32, .instret 1#64] := by decide
/-- Vector 47-7. -/
theorem test_c_jal :
    runs [.pc 0x100#32, .half 0x100 0x2021#16]
      [.reg 1#5 0x102#32, .pc 0x108#32, .instret 1#64] := by decide
/-- Vectors 47-8, 47-35. -/
theorem test_c_li :
    runs [.pc 0x100#32, .half 0x100 0x5501#16]
      [.reg 10#5 0xFFFFFFE0#32, .pc 0x102#32, .instret 1#64] ∧
    runs [.pc 0x100#32, .half 0x100 0x4015#16]
      [.pc 0x102#32, .instret 1#64] := by decide
/-- Vector 47-9. -/
theorem test_c_addi16sp :
    runs [.pc 0x100#32, .reg 2#5 0x8000#32, .half 0x100 0x7101#16]
      [.reg 2#5 0x7E00#32, .pc 0x102#32, .instret 1#64] := by decide
/-- Vector 47-10. -/
theorem test_c_lui :
    runs [.pc 0x100#32, .half 0x100 0x72FD#16]
      [.reg 5#5 0xFFFFF000#32, .pc 0x102#32, .instret 1#64] := by decide
/-- Vector 47-11. -/
theorem test_c_srli :
    runs [.pc 0x100#32, .reg 8#5 0x80000000#32, .half 0x100 0x8011#16]
      [.reg 8#5 0x8000000#32, .pc 0x102#32, .instret 1#64] := by decide
/-- Vector 47-12. -/
theorem test_c_srai :
    runs [.pc 0x100#32, .reg 8#5 0x80000000#32, .half 0x100 0x847D#16]
      [.reg 8#5 0xFFFFFFFF#32, .pc 0x102#32, .instret 1#64] := by decide
/-- Vector 47-13. -/
theorem test_c_andi :
    runs [.pc 0x100#32, .reg 8#5 0x1234567F#32, .half 0x100 0x9841#16]
      [.reg 8#5 0x12345670#32, .pc 0x102#32, .instret 1#64] := by decide
/-- Vector 47-14. -/
theorem test_c_sub :
    runs [.pc 0x100#32, .reg 8#5 0x5#32, .reg 9#5 0x7#32, .half 0x100 0x8C05#16]
      [.reg 8#5 0xFFFFFFFE#32, .pc 0x102#32, .instret 1#64] := by decide
/-- Vector 47-15. -/
theorem test_c_xor :
    runs [.pc 0x100#32, .reg 8#5 0xFF#32, .reg 9#5 0xF#32, .half 0x100 0x8C25#16]
      [.reg 8#5 0xF0#32, .pc 0x102#32, .instret 1#64] := by decide
/-- Vector 47-16. -/
theorem test_c_or :
    runs [.pc 0x100#32, .reg 8#5 0xF0#32, .reg 9#5 0xF#32, .half 0x100 0x8C45#16]
      [.reg 8#5 0xFF#32, .pc 0x102#32, .instret 1#64] := by decide
/-- Vector 47-17. -/
theorem test_c_and :
    runs [.pc 0x100#32, .reg 8#5 0xF0#32, .reg 9#5 0x3C#32, .half 0x100 0x8C65#16]
      [.reg 8#5 0x30#32, .pc 0x102#32, .instret 1#64] := by decide
/-- Vector 47-18. -/
theorem test_c_j :
    runs [.pc 0x100#32, .half 0x100 0xBFFD#16]
      [.pc 0xFE#32, .instret 1#64] := by decide
/-- Vectors 47-19, 47-20. -/
theorem test_c_beqz :
    runs [.pc 0x100#32, .reg 8#5 0x0#32, .half 0x100 0xC401#16]
      [.pc 0x108#32, .instret 1#64] ∧
    runs [.pc 0x100#32, .reg 8#5 0x1#32, .half 0x100 0xC401#16]
      [.pc 0x102#32, .instret 1#64] := by decide
/-- Vector 47-21. -/
theorem test_c_bnez :
    runs [.pc 0x100#32, .reg 8#5 0x1#32, .half 0x100 0xF001#16]
      [.pc 0x0#32, .instret 1#64] := by decide
/-- Vector 47-22. -/
theorem test_c_slli :
    runs [.pc 0x100#32, .reg 5#5 0x10000001#32, .half 0x100 0x028E#16]
      [.reg 5#5 0x80000008#32, .pc 0x102#32, .instret 1#64] := by decide
/-- Vector 47-23. -/
theorem test_c_lwsp :
    runs [.pc 0x100#32, .reg 2#5 0x3000#32, .word 0x300C 0xBADBEEF#32, .half 0x100 0x42B2#16]
      [.reg 5#5 0xBADBEEF#32, .pc 0x102#32, .instret 1#64] := by decide
/-- Vector 47-24. -/
theorem test_c_jr :
    runs [.pc 0x100#32, .reg 1#5 0x400#32, .half 0x100 0x8082#16]
      [.pc 0x400#32, .instret 1#64] := by decide
/-- Vector 47-25. -/
theorem test_c_mv :
    runs [.pc 0x100#32, .reg 6#5 0x77#32, .half 0x100 0x829A#16]
      [.reg 5#5 0x77#32, .pc 0x102#32, .instret 1#64] := by decide
/-- Vector 47-26. -/
theorem test_c_ebreak :
    halts [.pc 0x100#32, .half 0x100 0x9002#16] .breakpoint 0x100#32 := by decide
/-- Vector 47-27. -/
theorem test_c_jalr :
    runs [.pc 0x100#32, .reg 5#5 0x400#32, .half 0x100 0x9282#16]
      [.reg 1#5 0x102#32, .pc 0x400#32, .instret 1#64] := by decide
/-- Vector 47-28. -/
theorem test_c_add :
    runs [.pc 0x100#32, .reg 5#5 0x1#32, .reg 6#5 0xFFFFFFFF#32, .half 0x100 0x929A#16]
      [.reg 5#5 0x0#32, .pc 0x102#32, .instret 1#64] := by decide
/-- Vector 47-29. -/
theorem test_c_swsp :
    runs [.pc 0x100#32, .reg 2#5 0x3000#32, .reg 5#5 0xA5A5A5A5#32, .half 0x100 0xC616#16]
      [.pc 0x102#32, .word 0x300C 0xA5A5A5A5#32, .instret 1#64] := by decide

/-! ### Halts, environment calls, character port, system control (T60) -/

/-- Vectors 60-1, 60-2, 60-3. -/
theorem test_ecall_write :
    runs [.pc 0x100#32, .reg 17#5 0x40#32, .reg 10#5 0x1#32, .reg 11#5 0x1000#32, .reg 12#5 0x5#32, .word 0x1000 0x6C6C6548#32, .word 0x1004 0x6F#32, .word 0x100 0x00000073#32]
      [.reg 10#5 0x5#32, .pc 0x104#32, .out [0x48#8, 0x65#8, 0x6C#8, 0x6C#8, 0x6F#8], .instret 1#64] ∧
    runs [.pc 0x100#32, .reg 17#5 0x40#32, .reg 10#5 0x3#32, .reg 11#5 0x1000#32, .reg 12#5 0x5#32, .word 0x100 0x00000073#32]
      [.reg 10#5 0xFFFFFFFF#32, .pc 0x104#32, .instret 1#64] ∧
    runs [.pc 0x100#32, .reg 17#5 0x40#32, .reg 10#5 0x1#32, .reg 11#5 0xFFFFE#32, .reg 12#5 0x5#32, .word 0x100 0x00000073#32]
      [.reg 10#5 0xFFFFFFFF#32, .pc 0x104#32, .instret 1#64] := by decide
/-- Vector 60-5. -/
theorem test_ecall_exit :
    exits [.pc 0x100#32, .reg 17#5 0x5D#32, .reg 10#5 0x1FF#32, .word 0x100 0x00000073#32] 511#32 := by decide
/-- Vector 60-6. -/
theorem test_ecall_unknown :
    runs [.pc 0x100#32, .reg 17#5 0x3E7#32, .reg 10#5 0x7#32, .word 0x100 0x00000073#32]
      [.reg 10#5 0xFFFFFFDA#32, .pc 0x104#32, .instret 1#64] := by decide
/-- Vectors 60-7, 60-8. -/
theorem test_uart_data :
    runs [.pc 0x100#32, .reg 6#5 0x10000000#32, .uartIn [0x41#8], .word 0x100 0x00034283#32]
      [.reg 5#5 0x41#32, .pc 0x104#32, .instret 1#64, .uartIn []] ∧
    runs [.pc 0x100#32, .reg 6#5 0x10000000#32, .word 0x100 0x00034283#32]
      [.reg 5#5 0x0#32, .pc 0x104#32, .instret 1#64] := by decide
/-- Vectors 60-9, 60-10. -/
theorem test_uart_status :
    runs [.pc 0x100#32, .reg 6#5 0x10000000#32, .uartIn [0x41#8], .word 0x100 0x00534283#32]
      [.reg 5#5 0x61#32, .pc 0x104#32, .instret 1#64] ∧
    runs [.pc 0x100#32, .reg 6#5 0x10000000#32, .word 0x100 0x00534283#32]
      [.reg 5#5 0x60#32, .pc 0x104#32, .instret 1#64] := by decide
/-- Vector 60-11. -/
theorem test_uart_word :
    runs [.pc 0x100#32, .reg 6#5 0x10000000#32, .uartIn [0x41#8], .word 0x100 0x00032283#32]
      [.reg 5#5 0x0#32, .pc 0x104#32, .instret 1#64] := by decide
/-- Vector 60-12. -/
theorem test_sysctl_quit :
    runs [.pc 0x100#32, .reg 6#5 0x11300000#32, .reg 7#5 0x5555#32, .word 0x100 0x00732023#32]
      [.pc 0x104#32, .quit, .instret 1#64] := by decide
/-- Vectors 60-13, 60-14. -/
theorem test_fetch_halts :
    halts [.pc 0x101#32, .word 0x100 0x00000013#32] .misalignedFetch 0x101#32 ∧
    halts [.pc 0xFFFFE#32, .half 0xFFFFE 0x0013#16] .fetchOutOfRange 0x100000#32 := by decide
/-- Vector 60-15. -/
theorem test_fetch_last_half :
    runs [.pc 0xFFFFE#32, .half 0xFFFFE 0x0001#16]
      [.pc 0x100000#32, .instret 1#64] := by decide
/-- Vectors 60-17, 60-18, 60-19, 60-20, 60-21. -/
theorem test_illegal_words :
    halts [.pc 0x100#32, .word 0x100 0x30200073#32] .illegalInstruction 0x30200073#32 ∧
    halts [.pc 0x100#32, .word 0x100 0x10500073#32] .illegalInstruction 0x10500073#32 ∧
    halts [.pc 0x100#32, .word 0x100 0x0000000B#32] .illegalInstruction 0xB#32 ∧
    halts [.pc 0x100#32, .word 0x100 0x0203D293#32] .illegalInstruction 0x203D293#32 ∧
    halts [.pc 0x100#32, .word 0x100 0x000000F3#32] .illegalInstruction 0xF3#32 := by decide

/-! ### Environment calls, timer, keyboard, framebuffer (T61) -/

/-- Vectors 61-1, 61-2. -/
theorem test_ecall_brk :
    runs [.pc 0x100#32, .reg 17#5 214#32, .word 0x100 0x73#32] [.reg 10#5 0x40000#32, .pc 0x104#32, .instret 1#64] ∧
    runs [.pc 0x100#32, .reg 17#5 214#32, .reg 10#5 0x50000#32, .word 0x100 0x73#32]
      [.brk 0x50000#32, .pc 0x104#32, .instret 1#64] := by decide
/-- Vectors 61-3, 61-4. -/
theorem test_ecall_mmap :
    runs [.pc 0x100#32, .reg 17#5 222#32, .reg 11#5 0x1000#32, .offer (some 0xF0000#32), .word 0x100 0x73#32]
      [.reg 10#5 0xF0000#32, .taken [(0xF0000#32, 0x1000#32)], .pc 0x104#32, .instret 1#64] ∧
    runs [.pc 0x100#32, .reg 17#5 222#32, .reg 11#5 0x200000#32, .offer none, .word 0x100 0x73#32]
      [.reg 10#5 0xFFFFFFFF#32, .taken [], .pc 0x104#32, .instret 1#64] := by decide
/-- Vectors 61-5, 61-6. -/
theorem test_ecall_clock :
    runs [.pc 0x100#32, .reg 17#5 113#32, .reg 10#5 1#32, .reg 11#5 0x3000#32, .clock 2500000#64, .word 0x100 0x73#32]
      [.reg 10#5 0#32, .word 0x3000 2#32, .word 0x3004 0x1DCD6500#32, .drawn 2500000#64, .pc 0x104#32, .instret 1#64] ∧
    runs [.pc 0x100#32, .ts64, .reg 17#5 113#32, .reg 10#5 1#32, .reg 11#5 0x3000#32, .clock 2500000#64, .word 0x100 0x73#32]
      [.reg 10#5 0#32, .word 0x3000 2#32, .word 0x3008 0x1DCD6500#32, .drawn 2500000#64, .pc 0x104#32,
        .instret 1#64] := by decide
/-- Vectors 61-7, 61-8. -/
theorem test_ecall_clock_edges :
    runs [.pc 0x100#32, .reg 17#5 113#32, .reg 10#5 1#32, .reg 11#5 0xFFFFC#32, .clock 2500000#64, .word 0x100 0x73#32]
      [.reg 10#5 0#32, .drawn 2500000#64, .pc 0x104#32, .instret 1#64] ∧
    runs [.pc 0x100#32, .reg 17#5 113#32, .reg 11#5 0x2000#32, .resv 0x2004#32, .clock 7#64, .word 0x100 0x73#32]
      [.word 0x2004 0x1B58#32, .noResv, .drawn 7#64, .pc 0x104#32, .instret 1#64] := by decide
/-- Vectors 61-9, 61-10. -/
theorem test_ecall_read :
    runs [.pc 0x100#32, .reg 17#5 63#32, .reg 11#5 0x1000#32, .reg 12#5 4#32, .answer [0x61#8, 0x62#8], .word 0x100 0x73#32]
      [.reg 10#5 2#32, .byte 0x1000 0x61#8, .byte 0x1001 0x62#8, .taken [], .pc 0x104#32, .instret 1#64] ∧
    runs [.pc 0x100#32, .reg 17#5 63#32, .reg 11#5 0x1000#32, .reg 12#5 4#32, .answer [], .word 0x100 0x73#32]
      [.taken [], .pc 0x104#32, .instret 1#64] := by decide
/-- Vectors 61-11, 61-12. -/
theorem test_ecall_read_refused :
    runs [.pc 0x100#32, .reg 17#5 63#32, .reg 10#5 1#32, .reg 11#5 0x1000#32, .reg 12#5 4#32, .word 0x100 0x73#32]
      [.reg 10#5 0xFFFFFFFF#32, .pc 0x104#32, .instret 1#64] ∧
    runs [.pc 0x100#32, .reg 17#5 63#32, .reg 11#5 0xFFFFE#32, .reg 12#5 4#32, .word 0x100 0x73#32]
      [.reg 10#5 0xFFFFFFFF#32, .pc 0x104#32, .instret 1#64] := by decide
/-- Vectors 61-20 to 61-23. -/
theorem test_timer :
    runs [.pc 0x100#32, .reg 6#5 0x1100BFF8#32, .clock 0x0000000123456789#64, .word 0x100 0x00032283#32]
      [.reg 5#5 0x23456789#32, .drawn 0x0000000123456789#64, .pc 0x104#32, .instret 1#64] ∧
    runs [.pc 0x100#32, .reg 6#5 0x1100BFF8#32, .clock 0x0000000123456789#64, .word 0x100 0x00432283#32]
      [.reg 5#5 1#32, .drawn 0x0000000123456789#64, .pc 0x104#32, .instret 1#64] ∧
    runs [.pc 0x100#32, .reg 6#5 0x1100BFF8#32, .reg 5#5 9#32, .word 0x100 0x00030283#32]
      [.reg 5#5 0#32, .pc 0x104#32, .instret 1#64] ∧
    runs [.pc 0x100#32, .reg 6#5 0x1100BFF8#32, .word 0x100 0x00732023#32] [.pc 0x104#32, .instret 1#64] := by decide
/-- Vectors 61-24, 61-25. -/
theorem test_time_csrs :
    runs [.pc 0x100#32, .clock 0x0000000123456789#64, .word 0x100 0xC01022F3#32]
      [.reg 5#5 0x23456789#32, .drawn 0x0000000123456789#64, .pc 0x104#32, .instret 1#64] ∧
    runs [.pc 0x100#32, .clock 0x0000000123456789#64, .word 0x100 0xC81022F3#32]
      [.reg 5#5 1#32, .drawn 0x0000000123456789#64, .pc 0x104#32, .instret 1#64] := by decide
/-- Vectors 61-26 to 61-30. -/
theorem test_keyboard :
    runs [.pc 0x100#32, .reg 6#5 0x11200000#32, .kbd [0x1C#32, 0x32#32], .word 0x100 0x00032283#32]
      [.reg 5#5 1#32, .pc 0x104#32, .instret 1#64] ∧
    runs [.pc 0x100#32, .reg 6#5 0x11200000#32, .kbd [0x1C#32, 0x32#32], .word 0x100 0x00432283#32]
      [.reg 5#5 0x1C#32, .kbd [0x32#32], .pc 0x104#32, .instret 1#64] ∧
    runs [.pc 0x100#32, .reg 6#5 0x11200000#32, .kbd [0x11C#32], .word 0x100 0x00434283#32]
      [.reg 5#5 0x1C#32, .kbd [], .pc 0x104#32, .instret 1#64] ∧
    runs [.pc 0x100#32, .reg 6#5 0x11200000#32, .reg 5#5 9#32, .word 0x100 0x00432283#32]
      [.reg 5#5 0#32, .pc 0x104#32, .instret 1#64] ∧
    runs [.pc 0x100#32, .reg 6#5 0x11200000#32, .kbd [0x1C#32, 0x32#32], .word 0x100 0x00732423#32]
      [.kbd [], .pc 0x104#32, .instret 1#64] := by decide
/-- Vectors 61-31 to 61-35. -/
theorem test_framebuffer :
    runs [.pc 0x100#32, .reg 6#5 0x11100000#32, .reg 7#5 0xFF112233#32, .word 0x100 0x00732023#32]
      [.fb 0 0xFF112233#32, .pc 0x104#32, .instret 1#64] ∧
    runs [.pc 0x100#32, .reg 6#5 0x11100000#32, .fb 0 0xFF112233#32, .word 0x100 0x00234283#32]
      [.reg 5#5 0x11#32, .pc 0x104#32, .instret 1#64] ∧
    runs [.pc 0x100#32, .reg 6#5 0x11100A04#32, .reg 7#5 0xFF0000FF#32, .word 0x100 0x00732023#32]
      [.fb 0xA04 0xFF0000FF#32, .pc 0x104#32, .instret 1#64] ∧
    runs [.pc 0x100#32, .reg 6#5 0x1122BFFE#32, .fb 0x12BFFC 0xAABB0000#32, .word 0x100 0x00032283#32]
      [.reg 5#5 0xAABB#32, .pc 0x104#32, .instret 1#64] ∧
    runs [.pc 0x100#32, .reg 6#5 0x11200000#32, .reg 7#5 5#32, .word 0x100 0x00732023#32]
      [.pc 0x104#32, .instret 1#64] := by decide
/-- Vectors 61-36 to 61-39. -/
theorem test_sysctl_silent_and_quit :
    runs [.pc 0x100#32, .reg 6#5 0x11300000#32, .reg 7#5 0x5555#32, .word 0x100 0x00731023#32]
      [.pc 0x104#32, .instret 1#64] ∧
    runs [.pc 0x100#32, .reg 6#5 0x11300000#32, .reg 7#5 0x5556#32, .word 0x100 0x00732023#32]
      [.pc 0x104#32, .instret 1#64] ∧
    goes (start [.pc 0x101#32, .quit]) { start [.pc 0x101#32, .quit] with status := .quit } ∧
    runs [.pc 0x100#32, .reg 6#5 0x10000000#32, .reg 7#5 0x41#32, .resv 0x10000000#32, .word 0x100 0x00730023#32]
      [.out [0x41#8], .noResv, .pc 0x104#32, .instret 1#64] := by decide

/-! ### Classification (T20), host actions (T70) -/

/-- T20. -/
theorem test_classify :
    [(0x000FFFFC#32, 4), (0x000FFFFE#32, 4), (0x000FFFFE#32, 2), (0x00100000#32, 4), (0x100000FE#32, 4), (0x10000100#32, 4),
      (0x1100BFF4#32, 4), (0x11200004#32, 4), (0x1120000C#32, 4), (0x1122BFFC#32, 4), (0x1122C000#32, 4),
      (0x11300004#32, 4)].map (fun p => classify Config.canonical p.1 p.2) =
    [.ram, .outOfRange, .ram, .outOfRange, .dev .uart 0xFE, .outOfRange, .outOfRange, .dev .keyboard 4,
      .dev .framebuffer 0x10000C, .dev .framebuffer 0x12BFFC, .outOfRange, .outOfRange] ∧
    classify { Config.canonical with fbPresent := false } 0x11100000#32 4 = .outOfRange := by decide
/-- Vectors 70-2, 70-3, 70-4. -/
theorem test_load_image :
    ((loadImage [0x13#8, 0x0E#8] 0#32 0#32
      (start [.reg 5#5 9#32, .instret 77#64, .csr 0x340#12 3#32, .word 0x4000 0xAA#32, .resv 0x4000#32, .quit])).map
      fun t => agree t (start [.csr 0x340#12 3#32, .word 0x4000 0xAA#32, .resv 0x4000#32, .byte 0 0x13#8, .byte 1 0x0E#8])) =
      some true ∧
    ((loadImage [1#8, 2#8, 3#8, 4#8, 5#8] 0x3FFC#32 0#32 (start [.resv 0x4000#32])).map State.resvValid) = some false ∧
    loadImage [1#8, 2#8] 0xFFFFF#32 0#32 (start []) = none := by decide
/-- Vectors 70-5, 70-6, 70-7. -/
theorem test_host_write_and_reverse :
    agree (hostWriteByte 0x2001#32 0xEE#8 (start [.resv 0x2000#32]))
      (start [.byte 0x2001 0xEE#8, .resv 0x2000#32, .noResv]) ∧
    agree (hostWriteByte 0x00100000#32 0xEE#8 (start [])) (start []) ∧
    reverseStep (start []) = none := by decide
/-- Vectors 70-8, 70-9. -/
theorem test_entry_pc :
    halts [.pc 0x101#32] .misalignedFetch 0x101#32 ∧
    halts [.pc 0x100000#32] .fetchOutOfRange 0x100000#32 := by decide
/-- S6, one step of it: `sw x30, 0x100(x0)` and a reverse step. -/
theorem test_reverse_step :
    (reverseStep (stateOf (step (start [.reg 30#5 3#32, .pc 12#32, .instret 3#64, .word 12 0x11E02023#32])))).map
      (fun t => agree t (start [.reg 30#5 3#32, .pc 12#32, .instret 3#64, .word 12 0x11E02023#32, .word 0x100 3#32])) =
    some true := by decide
/-- S1's first step, placed by `withFetchWord`. -/
theorem test_withFetchWord :
    agree (stateOf (step (State.reset.withFetchWord 32 0x00100E13)))
      (start [.reg 28#5 1#32, .pc 4#32, .instret 1#64, .word 0 0x00100E13#32]) := by decide

/-! ### Witnesses: for each statement with hypotheses, concrete inputs that meet them together -/

theorem next_of {r : Result} (h : isNext r = true) : r = .next (stateOf r) := by
  cases r with
  | next t => rfl
  | fault f => cases h
  | refused f => cases h

/-- A state with something in most places, `addi x5, x6, -1` at its pc. -/
def busy : State :=
  start [.pc 0x100#32, .reg 6#5 0x2000#32, .word 0x100 0xFFF30293#32, .csr 0x340#12 3#32, .resv 0x2000#32, .kbd [1#32],
    .uartIn [0x41#8], .fb 0 1#32, .instret 41#64]

theorem busy_inv : Inv busy := by constructor <;> decide

theorem busy_steps : step busy = .next (stateOf (step busy)) := next_of (by decide)

theorem witness_CreationAndLoadValues :
    (0xFFFFF#32 : Word).toNat + [1#8].length ≤ busy.cfg.memSize ∧ busy.cfg.memSize < (0xFFFFF#32 : Word).toNat + [1#8, 2#8].length := by
  decide

theorem witness_InvKeptByStep : Inv busy ∧ step busy = .next (stateOf (step busy)) := ⟨busy_inv, busy_steps⟩

theorem witness_InvKeptByHost :
    Inv busy ∧ hostAct (.writeByte 0x2001#32 7#8) busy = some (hostWriteByte 0x2001#32 7#8 busy) := ⟨busy_inv, rfl⟩

theorem witness_PcStaysEven :
    PcEven (start [.pc 0x100#32, .reg 6#5 0x200#32, .word 0x100 0xFFF30067#32]) ∧
    isNext (step (start [.pc 0x100#32, .reg 6#5 0x200#32, .word 0x100 0xFFF30067#32])) = true := by decide

theorem witness_StepOutcomes :
    busy.status = .running ∧ ({ busy with status := .quit } : State).status ≠ .running := by decide

theorem witness_QuitStep :
    ((start [.quit]).status = .running ∧ (start [.quit]).dev.quit = true) ∧
    (busy.status = .running ∧ busy.dev.quit = false ∧ isNext (step busy) = true) ∧
    (let s := start [.pc 0x100#32, .reg 6#5 0x11300000#32, .reg 7#5 0x5555#32, .word 0x100 0x00732023#32]
     s.status = .running ∧ s.dev.quit = false ∧ isNext (step s) = true ∧ (stateOf (step s)).dev.quit = true) := by decide

/-- The five clauses, at the edges of RAM where they meet. -/
theorem witness_HaltPriority :
    let odd := start [.pc 0x101#32]
    let out := start [.pc 0x100000#32]
    let half := start [.pc 0xFFFFE#32]
    let cut := start [.pc 0xFFFFE#32, .half 0xFFFFE 0x0013#16]
    let word := start [.pc 0xFFFFC#32, .word 0xFFFFC 0x0000000B#32]
    (odd.status = .running ∧ odd.dev.quit = false ∧ odd.pc.getLsbD 0 = true) ∧
    (out.status = .running ∧ out.dev.quit = false ∧ out.pc.getLsbD 0 = false ∧ out.cfg.memSize < out.pc.toNat + 2) ∧
    (half.pc.getLsbD 0 = false ∧ half.pc.toNat + 2 ≤ half.cfg.memSize ∧
      (ramHalf half half.pc.toNat).extractLsb' 0 2 ≠ 3#2 ∧ decode16 (ramHalf half half.pc.toNat) = none) ∧
    (cut.pc.getLsbD 0 = false ∧ cut.pc.toNat + 2 ≤ cut.cfg.memSize ∧
      (ramHalf cut cut.pc.toNat).extractLsb' 0 2 = 3#2 ∧ cut.cfg.memSize < (cut.pc + 2#32).toNat + 2) ∧
    (word.pc.getLsbD 0 = false ∧ word.pc.toNat + 2 ≤ word.cfg.memSize ∧
      (ramHalf word word.pc.toNat).extractLsb' 0 2 = 3#2 ∧ (word.pc + 2#32).toNat + 2 ≤ word.cfg.memSize ∧
      decode32 (ramHalf word (word.pc + 2#32).toNat ++ ramHalf word word.pc.toNat) = none) := by decide

theorem witness_StepRunsDecoded :
    let half := start [.pc 0xFFFFE#32, .half 0xFFFFE 0x0001#16]
    (half.status = .running ∧ half.dev.quit = false ∧ half.pc.getLsbD 0 = false ∧ half.pc.toNat + 2 ≤ half.cfg.memSize ∧
      (ramHalf half half.pc.toNat).extractLsb' 0 2 ≠ 3#2 ∧ decode16 (ramHalf half half.pc.toNat) = some (.cNop 0#6) ∧
      isNext (exec (.cNop 0#6) half) = true) ∧
    (busy.status = .running ∧ busy.dev.quit = false ∧ busy.pc.getLsbD 0 = false ∧ busy.pc.toNat + 2 ≤ busy.cfg.memSize ∧
      (ramHalf busy busy.pc.toNat).extractLsb' 0 2 = 3#2 ∧ (busy.pc + 2#32).toNat + 2 ≤ busy.cfg.memSize ∧
      decode32 (ramHalf busy (busy.pc + 2#32).toNat ++ ramHalf busy busy.pc.toNat) = some (.addi 5#5 6#5 0xFFF#12) ∧
      isNext (exec (.addi 5#5 6#5 0xFFF#12) busy) = true) := by decide

/-- EBREAK at the pc. -/
def stopping : State := start [.pc 0x100#32, .word 0x100 0x00100073#32]

theorem witness_HaltChangesNothing :
    step stopping = .next (stateOf (step stopping)) ∧ (stateOf (step stopping)).status ≠ .running :=
  ⟨next_of (by decide), by decide⟩

/-- `jal x0, 0` at the pc: a state that retires for ever. -/
def Spins (s : State) : Prop := s.status = .running ∧ s.dev.quit = false ∧ fetch s = .ok (.word 0x0000006F#32)

theorem spins_step {s : State} (h : Spins s) : ∃ t, stepRetires s t ∧ Spins t := by
  obtain ⟨hr, hq, hf⟩ := h
  have hp : s.pc + sext 0#21 = s.pc := by
    rw [show sext (0#21) = 0#32 by decide, BitVec.add_zero]
  have hx : exec (.jal 0#5 0#21) s = .next (retire s.pc s) := by
    show Host.Outcome.next (retire (s.pc + sext 0#21) (writeReg 0#5 _ s)) = _
    rw [hp]; rfl
  have hs := step_decoded hr hq hf (by decide) hx
  rw [recordStep_running _ _ (by exact hr)] at hs
  exact ⟨_, ⟨hs, hr⟩, hr, hq, hf⟩

theorem spins_retires {s : State} (h : Spins s) (n : Nat) : ∃ t, retires n s t := by
  induction n generalizing s with
  | zero => exact ⟨s, rfl⟩
  | succ n ih =>
    obtain ⟨u, hu, hs⟩ := spins_step h
    obtain ⟨t, ht⟩ := ih hs
    exact ⟨t, u, hu, ht⟩

theorem spinning : Spins (start [.word 0 0x0000006F#32]) := by
  refine ⟨by decide, by decide, by decide⟩

theorem witness_CounterCountsSteps :
    (∃ t, retires 3 (start [.word 0 0x0000006F#32]) t) ∧
    (step stopping = .next (stateOf (step stopping)) ∧ (stateOf (step stopping)).status ≠ .running) :=
  ⟨spins_retires spinning 3, witness_HaltChangesNothing⟩

theorem witness_ReverseRestores :
    (∃ t, 512 ≤ 512 ∧ retires 512 (start [.word 0 0x0000006F#32]) t) ∧ (start []).dbg.snapshots = [] ∧
    ∃ t, reverseStep (stateOf (step busy)) = some t := by
  obtain ⟨t, ht⟩ := spins_retires spinning 512
  exact ⟨⟨t, by omega, ht⟩, rfl, Option.isSome_iff_exists.mp (by decide)⟩

theorem witness_RingsAfterStep :
    stepRetires busy (stateOf (step busy)) ∧ (ramHalf busy busy.pc.toNat).extractLsb' 0 2 = 3#2 ∧
    stepRetires (start [.half 0 0x0001#16]) (stateOf (step (start [.half 0 0x0001#16]))) ∧
    (ramHalf (start [.half 0 0x0001#16]) 0).extractLsb' 0 2 ≠ 3#2 :=
  ⟨⟨busy_steps, by decide⟩, by decide, ⟨next_of (by decide), by decide⟩, by decide⟩

theorem witness_CreationIsFixed :
    step busy = .next (stateOf (step busy)) ∧ hostAct .setQuit busy = some (Machine.setQuit busy) := ⟨busy_steps, rfl⟩

theorem witness_OneRegisterPerStep :
    exec (.addi 5#5 6#5 1#12) busy = .next (stateOf (exec (.addi 5#5 6#5 1#12) busy)) ∧
    (step busy = .next (stateOf (step busy)) ∧ (stateOf (step busy)).status = .running) :=
  ⟨rfl, busy_steps, by decide⟩

theorem witness_WhoChangesWhat :
    exec (.add 5#5 6#5 7#5) busy = .next (stateOf (exec (.add 5#5 6#5 7#5) busy)) ∧
    kind (.add 5#5 6#5 7#5) ∉ [.store, .sc, .amo, .ecall] ∧
    kind (.add 5#5 6#5 7#5) ∉ [.load, .store, .lr, .sc, .amo, .ecall, .csr] := ⟨rfl, by decide, by decide⟩

theorem witness_CsrStorageIsInert :
    kind (.add 5#5 6#5 7#5) ≠ .csr ∧ exec (.add 5#5 6#5 7#5) busy = .next (stateOf (exec (.add 5#5 6#5 7#5) busy)) :=
  ⟨by decide, rfl⟩

theorem witness_DecodeEncode :
    (Instr.jal 1#5 0x100000#21).wf = true ∧ (Instr.cLui 31#5 0x3F#6).wf = true ∧
    (Instr.cAddi16sp 0x3F0#10).wf = true := by decide

theorem witness_EncodeDecode :
    decodeEncoding (.word 0x00100E13#32) = some (.addi 28#5 0#5 1#12) ∧
    decodeEncoding (.half 0x0020#16) = some (.cAddi4spn 0#3 8#10) := by decide

theorem witness_OneRowPerWord :
    decode32 0x00100E13#32 = some (.addi 28#5 0#5 1#12) ∧ (Instr.addi 28#5 0#5 1#12).row ∈ opcodeTable32 ∧
    (Instr.addi 28#5 0#5 1#12).row.matchesWord 0x00100E13#32 = true ∧
    (let s := start [.pc 0xFFFFC#32, .word 0xFFFFC 0x30200073#32]
     s.status = .running ∧ s.dev.quit = false ∧ s.pc.getLsbD 0 = false ∧ s.pc.toNat + 2 ≤ s.cfg.memSize ∧
     (s.pc + 2#32).toNat + 2 ≤ s.cfg.memSize ∧
     ramHalf s (s.pc + 2#32).toNat ++ ramHalf s s.pc.toNat = 0x30200073#32 ∧
     (0x30200073#32).extractLsb' 0 2 = 3#2 ∧ ∀ r ∈ opcodeTable32, r.matchesWord 0x30200073#32 = false) := by decide

theorem witness_IllegalHalfwords :
    (0x6101#16 : Half).extractLsb' 0 2 ≠ 3#2 ∧
    (let s := start [.pc 0xFFFFE#32, .half 0xFFFFE 0x6101#16]
     s.status = .running ∧ s.dev.quit = false ∧ s.pc.getLsbD 0 = false ∧ s.pc.toNat + 2 ≤ s.cfg.memSize ∧
      (ramHalf s s.pc.toNat).extractLsb' 0 2 ≠ 3#2 ∧ expandHalf (ramHalf s s.pc.toNat) = none) := by decide

/-- x6 is an address, x7 a value. -/
def at6 (a v : Word) : State := start [.reg 6#5 a, .reg 7#5 v, .resv 0x2000#32, .uartIn [0x41#8], .kbd [0x11C#32]]

/-- The three cases of a load or store of each width, at the end of RAM and on a device. -/
theorem witness_Loads :
    [(0xFFFFF#32, 1), (0xFFFFE#32, 2), (0xFFFFC#32, 4)].map
      (fun p : Word × Nat => classify (at6 p.1 0#32).cfg (readReg 6#5 (at6 p.1 0#32) + (0#12).signExtend 32) p.2) =
      [.ram, .ram, .ram] ∧
    [(0x100000#32, 1), (0xFFFFF#32, 2), (0xFFFFD#32, 4)].map
      (fun p : Word × Nat => classify (at6 p.1 0#32).cfg (readReg 6#5 (at6 p.1 0#32) + (0#12).signExtend 32) p.2) =
      [.outOfRange, .outOfRange, .outOfRange] ∧
    [(0x10000000#32, 1), (0x100000FF#32, 2), (0x11200004#32, 4)].map
      (fun p : Word × Nat => classify (at6 p.1 0#32).cfg (readReg 6#5 (at6 p.1 0#32) + (0#12).signExtend 32) p.2) =
      [.dev .uart 0, .dev .uart 0xFF, .dev .keyboard 4] := by decide

/-- The same, with a displacement below zero. -/
theorem witness_Stores :
    [(0x100000#32, 1), (0xFFFFF#32, 2), (0xFFFFD#32, 4)].map
      (fun p : Word × Nat => classify (at6 p.1 0#32).cfg (readReg 6#5 (at6 p.1 0#32) + (0xFFF#12).signExtend 32) p.2) =
      [.ram, .ram, .ram] ∧
    [(0x100001#32, 1), (0x100000#32, 2), (0xFFFFE#32, 4)].map
      (fun p : Word × Nat => classify (at6 p.1 0#32).cfg (readReg 6#5 (at6 p.1 0#32) + (0xFFF#12).signExtend 32) p.2) =
      [.outOfRange, .outOfRange, .outOfRange] ∧
    [(0x10000001#32, 1), (0x10000100#32, 2), (0x11200009#32, 4)].map
      (fun p : Word × Nat => classify (at6 p.1 0#32).cfg (readReg 6#5 (at6 p.1 0#32) + (0xFFF#12).signExtend 32) p.2) =
      [.dev .uart 0, .dev .uart 0xFF, .dev .keyboard 8] := by decide

theorem witness_StoreThenLoad :
    let s := at6 0xFFFFC#32 0x12345678#32
    (5#5 : RegIdx) ≠ 0#5 ∧ (readReg 6#5 s).toNat + 4 ≤ s.cfg.memSize ∧ s.cfg.memSize ≤ 2 ^ 27 ∧
    (∀ k, k < 4 → deviceAt s.cfg (readReg 6#5 s + BitVec.ofNat 32 k) = none) ∧
    isNext (exec (.sw 6#5 7#5 0#12) s) = true := by decide

theorem witness_StoreThenFetch :
    [7#32, 4#32].all (fun v =>
      let s := at6 0xFFFFC#32 v
      decide (classify s.cfg (readReg 6#5 s) 4 = .ram ∧ s.cfg.memSize ≤ 2 ^ 27 ∧ (readReg 6#5 s).getLsbD 0 = false) &&
      isNext (exec (.sw 6#5 7#5 0#12) s) && readReg 7#5 s == v) = true ∧
    (7#32).extractLsb' 0 2 = 3#2 ∧ (4#32).extractLsb' 0 2 ≠ 3#2 := by decide

theorem witness_LoadReserved :
    classify (at6 0xFFFFC#32 0#32).cfg (readReg 6#5 (at6 0xFFFFC#32 0#32)) 4 = .ram ∧
    classify (at6 0xFFFFD#32 0#32).cfg (readReg 6#5 (at6 0xFFFFD#32 0#32)) 4 = .outOfRange ∧
    classify (at6 0x10000000#32 0#32).cfg (readReg 6#5 (at6 0x10000000#32 0#32)) 4 = .dev .uart 0 ∧
    (1#5 : BitVec 5) ≠ 0#5 := by decide

/-- x6 is an address, and it is reserved. -/
def reserved6 (a : Word) : State := start [.reg 6#5 a, .reg 7#5 0x63#32, .resv a]

theorem witness_StoreConditional :
    [0xFFFFC#32, 0x10000000#32, 0xFFFFD#32].map
      (fun a => ((reserved6 a).resvValid, decide ((reserved6 a).resvAddr = readReg 6#5 (reserved6 a)),
        classify (reserved6 a).cfg (readReg 6#5 (reserved6 a)) 4)) =
      [(true, true, .ram), (true, true, .dev .uart 0), (true, true, .outOfRange)] ∧
    (start []).resvValid = false ∧ (at6 0x2004#32 0#32).resvAddr ≠ readReg 6#5 (at6 0x2004#32 0#32) := by decide

theorem witness_AtomicOperations :
    [0xFFFFC#32, 0x10000000#32, 0xFFFFD#32].map
      (fun a => classify (at6 a 0#32).cfg (readReg 6#5 (at6 a 0#32)) 4) = [.ram, .dev .uart 0, .outOfRange] := by decide

/-- Both ways: LR.W makes one, another instruction keeps one. -/
theorem witness_ReservationLifetime :
    (isNext (exec (.lrW 5#5 6#5 false false) (at6 0x3000#32 0#32)) = true ∧
      (stateOf (exec (.lrW 5#5 6#5 false false) (at6 0x3000#32 0#32))).resvValid = true) ∧
    (isNext (exec (.sb 6#5 7#5 4#12) (at6 0x2000#32 1#32)) = true ∧
      (stateOf (exec (.sb 6#5 7#5 4#12) (at6 0x2000#32 1#32))).resvValid = true) := by decide

theorem witness_ReservedPair :
    let s := reserved6 0x2000#32
    let t := stateOf (exec (.addi 5#5 5#5 1#12) s)
    let u := stateOf (exec (.sb 6#5 7#5 3#12) s)
    (s.resvValid = true ∧ s.resvAddr = readReg 6#5 t ∧ classify s.cfg s.resvAddr 4 = .ram ∧
      kind (.addi 5#5 5#5 1#12) ∉ [.store, .lr, .sc, .amo, .ecall] ∧ isNext (exec (.addi 5#5 5#5 1#12) s) = true) ∧
    (s.resvAddr = readReg 6#5 u ∧ 3 < 4 ∧
      (readReg 6#5 s + (3#12).signExtend 32).toNat = s.resvAddr.toNat + 3 ∧
      classify s.cfg (readReg 6#5 s + (3#12).signExtend 32) 1 = .ram ∧ isNext (exec (.sb 6#5 7#5 3#12) s) = true) := by
  decide

theorem witness_CsrInstructions :
    (0x000#12 ∉ counterCsrs ∧ 0xC03#12 ∉ counterCsrs ∧ 0xFFF#12 ∉ counterCsrs) ∧
    0xC00#12 ∈ [0xC00#12, 0xC02#12, 0xB02#12] ∧ 0xB82#12 ∈ [0xC80#12, 0xC82#12, 0xB82#12] := by decide

theorem witness_JumpsAndBranches : (1#3 : BitVec 3) ≠ 0#3 := by decide

/-- An environment call with the selector in x17 and x10 to x12. -/
def call (sel a0 a1 a2 : Word) : State := start [.reg 17#5 sel, .reg 10#5 a0, .reg 11#5 a1, .reg 12#5 a2]

theorem witness_EnvironmentWrite :
    (let s := call 64#32 1#32 0xFFFFE#32 2#32
     readReg 17#5 s = 64#32 ∧ (readReg 10#5 s = 1#32 ∨ readReg 10#5 s = 2#32) ∧
      (readReg 11#5 s).toNat + (readReg 12#5 s).toNat ≤ s.cfg.memSize) ∧
    (let s := call 64#32 3#32 0#32 0#32
     readReg 17#5 s = 64#32 ∧ readReg 10#5 s ≠ 1#32 ∧ readReg 10#5 s ≠ 2#32) ∧
    (let s := call 64#32 2#32 0xFFFFE#32 3#32
     readReg 17#5 s = 64#32 ∧ s.cfg.memSize < (readReg 11#5 s).toNat + (readReg 12#5 s).toNat) := by decide

theorem witness_EnvironmentRead :
    (let s := call 63#32 0#32 0xFFFFE#32 2#32
     readReg 17#5 s = 63#32 ∧ readReg 10#5 s = 0#32 ∧
      (readReg 11#5 s).toNat + (readReg 12#5 s).toNat ≤ s.cfg.memSize) ∧
    (let s := call 63#32 1#32 0#32 0#32
     readReg 17#5 s = 63#32 ∧ readReg 10#5 s ≠ 0#32) ∧
    (let s := call 63#32 0#32 0xFFFFE#32 3#32
     readReg 17#5 s = 63#32 ∧ s.cfg.memSize < (readReg 11#5 s).toNat + (readReg 12#5 s).toNat) := by decide

theorem witness_EnvironmentOther :
    readReg 17#5 (call 93#32 1#32 0#32 0#32) = 93#32 ∧
    (readReg 17#5 (call 214#32 0#32 0#32 0#32) = 214#32 ∧ readReg 10#5 (call 214#32 0#32 0#32 0#32) = 0#32) ∧
    (readReg 17#5 (call 214#32 1#32 0#32 0#32) = 214#32 ∧ readReg 10#5 (call 214#32 1#32 0#32 0#32) ≠ 0#32) ∧
    (let s := start [.reg 17#5 222#32, .reg 11#5 0x1000#32, .offer (some 0xFF000#32)]
     readReg 17#5 s = 222#32 ∧ hostMmapBase (readReg 11#5 s) s = some 0xFF000#32) ∧
    (let s := start [.reg 17#5 222#32, .reg 11#5 0x1001#32, .offer (some 0xFF000#32)]
     readReg 17#5 s = 222#32 ∧ hostMmapBase (readReg 11#5 s) s = none) ∧
    readReg 17#5 (call 999#32 0#32 0#32 0#32) ∉ [93#32, 64#32, 63#32, 214#32, 222#32, 113#32] := by decide

/-- TS32 has 8 bytes, TS64 16; both at the end of RAM, and one byte further. -/
theorem witness_EnvironmentClock :
    [(0xFFFF8#32, 8, true), (0xFFFF9#32, 8, false), (0xFFFF0#32, 16, true), (0xFFFF1#32, 16, false)].all
      (fun p : Word × Nat × Bool => readReg 17#5 (call 113#32 0#32 p.1 0#32) == 113#32 &&
        decide ((readReg 11#5 (call 113#32 0#32 p.1 0#32)).toNat + p.2.1 ≤ (call 113#32 0#32 p.1 0#32).cfg.memSize) == p.2.2) =
      true ∧
    (start []).cfg.timespec = .ts32 ∧ (start [.ts64]).cfg.timespec = .ts64 := by decide

/-- The legality conditions, met at their least values. -/
theorem witness_CompressedAdds :
    (0#4 : BitVec 4) ++ (0#2 : BitVec 2) ++ (0#1 : BitVec 1) ++ (1#1 : BitVec 1) ++ 0#2 ≠ 0#10 ∧ (1#5 : BitVec 5) ≠ 0#5 ∧
    (0#1 : BitVec 1) ++ (0#2 : BitVec 2) ++ (0#1 : BitVec 1) ++ (0#1 : BitVec 1) ++ (1#1 : BitVec 1) ++ 0#4 ≠ 0#10 ∧
    (0#5 : BitVec 5) ≠ 2#5 ∧ (0#1 : BitVec 1) ++ (1#5 : BitVec 5) ≠ 0#6 := by decide

theorem witness_CompressedControl : (1#5 : BitVec 5) ≠ 0#5 := by decide

theorem witness_CompressedMemory :
    (1#5 : BitVec 5) ≠ 0#5 ∧
    [0xFFFFC#32, 0x10000000#32, 0xFFFFD#32].map
      (fun a => classify Config.canonical (readReg 2#5 (start [.reg 2#5 a]) + (0#8).zeroExtend 32) 4) =
      [.ram, .dev .uart 0, .outOfRange] := by decide

/-- Both ways: the expansion retires, the expansion halts. -/
theorem witness_CompressedAsExpansion :
    (Instr.expand (.cAdd 5#5 6#5) = some (.add 5#5 5#5 6#5) ∧ kind (.cAdd 5#5 6#5) ∉ [.jump, .branch] ∧
      busy.status = .running ∧ isNext (exec (.add 5#5 5#5 6#5) busy) = true ∧
      (stateOf (exec (.add 5#5 5#5 6#5) busy)).status = .running) ∧
    (Instr.expand .cEbreak = some .ebreak ∧ kind .cEbreak ∉ [.jump, .branch] ∧ busy.status = .running ∧
      isNext (exec .ebreak busy) = true ∧ (stateOf (exec .ebreak busy)).status ≠ .running) := by decide

theorem witness_CharacterPort :
    ConfigOk busy.cfg ∧ (start []).dev.uartIn = [] ∧ busy.dev.uartIn = 0x41#8 :: [] ∧
    (255 < 256 ∧ (Width.word ≠ .byte ∨ 255 ≠ 0 ∧ 255 ≠ 5)) ∧ (5 < 256 ∧ (Width.byte ≠ .byte ∨ 5 ≠ 0)) := by decide

theorem witness_TimerRegisters :
    ConfigOk busy.cfg ∧ (7 < 8 ∧ (Width.word ≠ .word ∨ 7 ≠ 0 ∧ 7 ≠ 4)) ∧ (4 < 8 ∧ (Width.half ≠ .word ∨ 4 ≠ 0 ∧ 4 ≠ 4)) := by
  decide

theorem witness_TimerMonotone :
    Inv busy ∧ (drawClock busy).env.t0Host = busy.env.t0Host ∧
    (drawClock busy).env.clockLast = (drawClock busy).env.clockLast ∧
    ∃ t, reaches 1 (drawClock busy) t :=
  ⟨busy_inv, rfl, rfl, _, _, next_of (by decide), rfl⟩

/-- The first byte, and the last one with a word that runs past the end. -/
theorem witness_Framebuffer :
    classify busy.cfg 0x11100000#32 (widthBytes .byte) = .dev .framebuffer 0 ∧
    classify busy.cfg 0x1122BFFF#32 (widthBytes .word) = .dev .framebuffer 0x12BFFF := by decide

theorem witness_FramebufferPixels :
    639 < 640 ∧ 479 < 480 ∧
    classify busy.cfg 0x11100000#32 4 = .dev .framebuffer (4 * (0 * 640 + 0)) ∧
    classify busy.cfg 0x1122BFFC#32 4 = .dev .framebuffer (4 * (479 * 640 + 639)) ∧ (638, 479) ≠ (639, 479) := by decide

/-- 95_test_vectors.md T61-31, and the pixel one row down and one column right. -/
theorem test_pixels :
    let s := start [.fb 0 0xFF112233#32, .fb 2564 0x80010203#32]
    fbPixel s 0 0 = { alpha := 0xFF#8, red := 0x11#8, green := 0x22#8, blue := 0x33#8 } ∧
    fbPixel s 1 1 = { alpha := 0x80#8, red := 0x01#8, green := 0x02#8, blue := 0x03#8 } := by decide

theorem witness_Keyboard :
    ConfigOk busy.cfg ∧ busy.cfg.kbdPresent = true ∧ busy.dev.kbdQ = 1#32 :: [] ∧ (start []).dev.kbdQ = [] ∧
    (11 < 12 ∧ 11 ≠ 0 ∧ 11 ≠ 4) ∧ (11 < 12 ∧ 11 ≠ 8) := by decide

theorem witness_SystemControl :
    (let s := at6 0x11300000#32 0x5555#32
     ConfigOk s.cfg ∧ s.status = .running ∧ readReg 6#5 s = s.cfg.sysctlBase ∧ readReg 7#5 s = s.cfg.sysctlMagic) ∧
    (3 < 4 ∧ (Width.word ≠ .word ∨ 3 ≠ 0 ∨ 0#32 ≠ 0x5555#32)) := by decide

theorem witness_HostBytes :
    (0xFFFFF#32 : Word).toNat < busy.cfg.memSize ∧ busy.cfg.memSize ≤ (0x100000#32 : Word).toNat := by decide

end Sys2Proof.Tests
end

section
/-! SUPPORT. The state at creation and after a program load, the registers after a step, and the CSR instructions:
the lemmas and proofs of the statements about 10_state.md. -/

namespace Sys2Proof.Machine

/-! ### Creation and program load (R50, R562) -/

/-- A register file of zeros reads 0 everywhere. -/
theorem readReg_of_regs_replicate {s : State} (h : s.regs = Vector.replicate 32 0#32) (r : RegIdx) :
    readReg r s = 0#32 := by
  simp [readReg, h]

/-- A created machine has no byte in its framebuffer. -/
theorem fbByte_create (c : Config) (o : Nat) : fbByte (State.create c) o = 0#8 := ite_self _

/-- What a program load resets besides the bytes it copies (R562): registers, pc, counter, quit flag, status, rings. -/
def restarted (entry : Word) (s : State) : State :=
  { s with
    regs := Vector.replicate 32 0#32
    pc := entry
    instret := 0#64
    dev := { s.dev with quit := false }
    status := .running
    dbg := { snapshots := [], trace := [] } }

@[simp] theorem loaded_instret (bytes : List Byte) (addr entry : Word) (s : State) :
    (loaded bytes addr entry s).instret = 0#64 := rfl

@[simp] theorem loaded_dbg (bytes : List Byte) (addr entry : Word) (s : State) :
    (loaded bytes addr entry s).dbg = { snapshots := [], trace := [] } := rfl

/-- A program load is a store of the image, with its snoop, into the restarted machine. -/
theorem loaded_eq_writeRam (bytes : List Byte) (addr entry : Word) (s : State) :
    loaded bytes addr entry s = writeRam addr.toNat bytes (restarted entry s) := rfl

theorem storesBytes_loaded (bytes : List Byte) (addr entry : Word) (s : State) :
    StoresBytes (restarted entry s) addr.toNat bytes (loaded bytes addr entry s) := by
  rw [loaded_eq_writeRam]
  exact storesBytes_writeRam _ _ _

theorem loadImage_of_le {bytes : List Byte} {addr : Word} {s : State}
    (h : addr.toNat + bytes.length ≤ s.cfg.memSize) (entry : Word) :
    loadImage bytes addr entry s = some (loaded bytes addr entry s) := if_pos h

theorem loadImage_of_lt {bytes : List Byte} {addr : Word} {s : State}
    (h : s.cfg.memSize < addr.toNat + bytes.length) (entry : Word) :
    loadImage bytes addr entry s = none := if_neg (Nat.not_le.mpr h)

/-- Settles O1: creation field by field; a load that fits as a store into the restarted machine; one that does not fit. -/
theorem creationAndLoadValues : Obligations.CreationAndLoadValues := by
  refine ⟨?_, fun bytes addr entry s hfit => ?_, fun bytes addr entry s hlong => loadImage_of_lt hlong entry⟩
  · rintro c s rfl
    exact ⟨readReg_of_regs_replicate rfl, rfl, rfl, rfl, fun _ => rfl, fun _ => rfl, rfl, rfl, rfl, rfl,
      fbByte_create c, rfl, rfl, rfl, rfl, rfl, rfl⟩
  · obtain ⟨hstored, hkept, hresv, -⟩ := storesBytes_loaded bytes addr entry s
    exact ⟨_, loadImage_of_le hfit entry, readReg_of_regs_replicate (loaded_regs ..), loaded_regs .., loaded_pc ..,
      loaded_instret .., hstored, hkept, loaded_csrmem .., loaded_resvAddr .., hresv, loaded_dev .., loaded_env ..,
      loaded_status .., rfl, rfl, loaded_cfg ..⟩

/-! ### Registers after an instruction and after a step (R30, R31, R174) -/

/-- Basic changes change no register. -/
theorem Effects.readReg_eq {s u : State} (h : Effects s u) (r : RegIdx) : readReg r u = readReg r s :=
  readReg_congr h.same.regs r

/-- Retiring with a write of `rd` after basic changes keeps every register but `rd`. -/
theorem Effects.readReg_retire_of_ne {s u : State} (h : Effects s u) {rd r : RegIdx} (hr : r ≠ rd) (v n : Word) :
    readReg r (retire n (writeReg rd v u)) = readReg r s :=
  ((writesReg_retire u rd v n).others r hr).trans (h.readReg_eq r)

/-- Whatever the way an instruction ends, it writes at most one register. -/
theorem Answer.exists_readReg_eq {s t : State} (h : Answer s (.next t)) :
    ∃ rd, ∀ r, r ≠ rd → readReg r t = readReg r s := by
  cases h with
  | halts _ _ => exact ⟨0#5, fun _ _ => rfl⟩
  | exits _ => exact ⟨0#5, fun _ _ => rfl⟩
  | retires hu rd v n => exact ⟨rd, fun _ hr => hu.readReg_retire_of_ne hr v n⟩

/-- A step that leaves the machine running has retired an instruction, which forces x0. -/
theorem StepCases.regs_zero_of_running {s t : State} (h : StepCases s t) (hr : t.status = .running) :
    t.regs[0] = 0#32 := by
  cases h with
  | quit _ => cases hr
  | halts _ _ => cases hr
  | exits _ => cases hr
  | retires _ _ _ _ _ n _ => exact retire_regs_zero n _

/-- Settles O15: the three ways an instruction ends, and the one way a step retires. -/
theorem oneRegisterPerStep : Obligations.OneRegisterPerStep := by
  refine ⟨fun i s t h => ?_, fun s t ⟨hstep, hrun⟩ => ?_⟩
  · exact (h ▸ exec_answer i s : Answer s (.next t)).exists_readReg_eq
  · obtain ⟨-, hcases⟩ := step_cases hstep
    exact ⟨hcases.regs_zero_of_running hrun, readReg_zero t⟩

/-! ### The layout of the CSR instructions (R129, R132) -/

theorem decode32_of_system {w : Word} (h : opcodeF w = 0x73#7) : decode32 w = decodeSystem w := by
  simp only [decode32, h]

/-- A minor opcode of SYSTEM that takes its instruction from the I-layout's fields has the CSR layout. -/
theorem layoutCsr_of_decodeSystem {f3 : BitVec 3} {mk : RegIdx → CsrIdx → BitVec 5 → Instr}
    (h : ∀ w, funct3F w = f3 → decodeSystem w = some (mk (rdF w) (immI w) (rs1F w))) : LayoutCsr f3 mk := by
  intro csr src rd
  calc decodeEncoding (.word (encI csr src f3 rd 0x73#7))
    _ = decodeSystem (encI csr src f3 rd 0x73#7) := decode32_of_system (opcodeF_encI ..)
    _ = some (mk rd csr src) := by rw [h _ (funct3F_encI ..), rdF_encI, immI_encI, rs1F_encI]

/-- The six minor opcodes of the CSR instructions. -/
theorem csr_layouts :
    LayoutCsr 1#3 .csrrw ∧ LayoutCsr 2#3 .csrrs ∧ LayoutCsr 3#3 .csrrc ∧
      LayoutCsr 5#3 .csrrwi ∧ LayoutCsr 6#3 .csrrsi ∧ LayoutCsr 7#3 .csrrci := by
  refine ⟨?_, ?_, ?_, ?_, ?_, ?_⟩ <;> exact layoutCsr_of_decodeSystem fun w h => by simp only [decodeSystem, h]

/-! ### The CSR operations at the two kinds of index (R40, R42, R374) -/

theorem csrRead_counterLo {c : CsrIdx} (h : c ∈ counterLo) (s : State) :
    csrRead c s = (s.instret.extractLsb' 0 32, s) := if_pos h

theorem csrRead_counterHi {c : CsrIdx} (h : c ∈ counterHi) (s : State) :
    csrRead c s = (s.instret.extractLsb' 32 32, s) := by
  have disjoint : ∀ d ∈ counterHi, d ∉ counterLo := by decide
  rw [csrRead, if_neg (disjoint c h), if_pos h]

theorem csrRead_time (s : State) : csrRead 0xC01#12 s = ((timerValue s).extractLsb' 0 32, drawClock s) := rfl

theorem csrRead_timeh (s : State) : csrRead 0xC81#12 s = ((timerValue s).extractLsb' 32 32, drawClock s) := rfl

section
variable {rd : RegIdx} {c : CsrIdx} {src : Word} {s : State}

/-- At a counter index a writing form only reads. -/
theorem csrWriteOp_counter (h : c ∈ counterCsrs) :
    csrWriteOp rd c src s = retireWith rd (csrRead c s).1 (s.pc + 4#32) (csrRead c s).2 := by
  simp only [csrWriteOp, csrWrite_counter _ _ h]

/-- At a counter index a set or clear form only reads. -/
theorem csrModifyOp_counter (f : Word → Word → Word) (field : BitVec 5) (h : c ∈ counterCsrs) :
    csrModifyOp f rd c src field s = retireWith rd (csrRead c s).1 (s.pc + 4#32) (csrRead c s).2 := by
  simp only [csrModifyOp, csrWrite_counter _ _ h, ite_self]

theorem csrWriteOp_plain (h : c ∉ counterCsrs) :
    csrWriteOp rd c src s = retireWith rd (sparseGet s.csrmem c.toNat) (s.pc + 4#32) (csrWrite c src s) := by
  simp only [csrWriteOp, csrRead_plain h]

theorem csrModifyOp_plain (f : Word → Word → Word) (field : BitVec 5) (h : c ∉ counterCsrs) :
    csrModifyOp f rd c src field s = retireWith rd (sparseGet s.csrmem c.toNat) (s.pc + 4#32)
      (if field = 0#5 then s else csrWrite c (f (sparseGet s.csrmem c.toNat) src) s) := by
  simp only [csrModifyOp, csrRead_plain h]

end

/-- An instruction whose meaning ends in `retireWith` completes. -/
theorem completesFrom_of_retireWith {i : Instr} {s u : State} {rd : RegIdx} {v n : Word}
    (h : exec i s = retireWith rd v n u) : CompletesFrom i s u rd v n :=
  ⟨_, h, writesReg_retire u rd v n⟩

/-- The form only reads at a counter index, as `csrWriteOp` and `csrModifyOp` do (R40). -/
def ReadsCounters (mk : RegIdx → CsrIdx → BitVec 5 → Instr) : Prop :=
  ∀ rd c x s, c ∈ counterCsrs →
    exec (mk rd c x) s = retireWith rd (csrRead c s).1 (s.pc + 4#32) (csrRead c s).2

section
variable {mk : RegIdx → CsrIdx → BitVec 5 → Instr} {src : BitVec 5 → State → Word}

theorem ReadsCounters.completesFrom (h : ReadsCounters mk) {c : CsrIdx} (hc : c ∈ counterCsrs) {s u : State} {v : Word}
    (hread : csrRead c s = (v, u)) (rd : RegIdx) (x : BitVec 5) :
    CompletesFrom (mk rd c x) s u rd v (s.pc + 4#32) :=
  completesFrom_of_retireWith (by rw [h rd c x s hc, hread])

theorem ReadsCounters.counterAccess (h : ReadsCounters mk) : CounterAccess mk := fun rd x s =>
  ⟨fun _ hc => h.completesFrom (List.mem_append_left _ (List.mem_append_left _ hc)) (csrRead_counterLo hc s) rd x,
   fun _ hc => h.completesFrom (List.mem_append_left _ (List.mem_append_right _ hc)) (csrRead_counterHi hc s) rd x,
   onlyDraws_drawClock s,
   h.completesFrom (by decide) (csrRead_time s) rd x,
   h.completesFrom (by decide) (csrRead_timeh s) rd x⟩

/-- A form that is `csrWriteOp` reads the counters, and elsewhere always stores its source value. -/
theorem access_of_csrWriteOp (h : ∀ rd c field s, exec (mk rd c field) s = csrWriteOp rd c (src field s) s) :
    CounterAccess mk ∧ CsrAccess mk src true (fun _ v => v) := by
  constructor
  · exact ReadsCounters.counterAccess fun rd c x s hc => (h rd c x s).trans (csrWriteOp_counter hc)
  · intro rd c field s hc
    refine ⟨csrWrite c (src field s) s, ?_, completesFrom_of_retireWith ((h rd c field s).trans (csrWriteOp_plain hc))⟩
    simpa using storesCsr_csrWrite s (src field s) hc

/-- A form that is `csrModifyOp f` reads the counters, and elsewhere stores `f old src`, or leaves the index alone when
its source field is 0. -/
theorem access_of_csrModifyOp {f : Word → Word → Word}
    (h : ∀ rd c field s, exec (mk rd c field) s = csrModifyOp f rd c (src field s) field s) :
    CounterAccess mk ∧ CsrAccess mk src false f := by
  constructor
  · exact ReadsCounters.counterAccess fun rd c x s hc => (h rd c x s).trans (csrModifyOp_counter f x hc)
  · intro rd c field s hc
    refine ⟨_, ?_, completesFrom_of_retireWith ((h rd c field s).trans (csrModifyOp_plain f field hc))⟩
    by_cases hz : field = 0#5
    · simpa [hz] using storesCsr_same s c
    · simpa [hz] using storesCsr_csrWrite s (f (sparseGet s.csrmem c.toNat) (src field s)) hc

end

/-- Settles O38: the layouts, and each instruction as `csrWriteOp` or `csrModifyOp` on its source value. -/
theorem csrInstructions : Obligations.CsrInstructions := by
  obtain ⟨hrw, hrs, hrc, hrwi, hrsi, hrci⟩ := csr_layouts
  exact
    ⟨⟨hrw, access_of_csrWriteOp fun _ _ _ _ => rfl⟩,
     ⟨hrs, access_of_csrModifyOp (f := csrSetBits) fun _ _ _ _ => rfl⟩,
     ⟨hrc, access_of_csrModifyOp (f := csrClearBits) fun _ _ _ _ => rfl⟩,
     ⟨hrwi, access_of_csrWriteOp fun _ _ _ _ => rfl⟩,
     ⟨hrsi, access_of_csrModifyOp (f := csrSetBits) fun _ _ _ _ => rfl⟩,
     ⟨hrci, access_of_csrModifyOp (f := csrClearBits) fun _ _ _ _ => rfl⟩⟩

end Sys2Proof.Machine
end

section
/-! SUPPORT. Classification of an access by its lowest byte (20_memory.md R72, R75, R77). -/

namespace Sys2Proof.Machine

/-! ### The first element of a list that satisfies a test -/

section
variable {α : Type}

theorem find?_cons_eq_ite (p : α → Bool) (x : α) (l : List α) :
    (x :: l).find? p = if p x then some x else l.find? p := by
  rw [List.find?_cons]
  cases p x <;> rfl

variable [DecidableEq α] {p : α → Bool} {l : List α} {b x : α}

/-- Behind a head other than `b`, what precedes `b` is the head and what precedes `b` in the tail. -/
theorem idxOf_cons_lt_idxOf_cons (h : x ≠ b) (e : α) :
    (x :: l).idxOf e < (x :: l).idxOf b ↔ x = e ∨ l.idxOf e < l.idxOf b := by
  rw [List.idxOf_cons_ne l h]
  by_cases he : x = e
  · simp [he]
  · simp [he, List.idxOf_cons_ne l he]

/-- `find?` answers `b` when `b` satisfies the test and nothing that precedes it does. -/
theorem find?_eq_some_iff_idxOf (hb : b ∈ l) :
    l.find? p = some b ↔ p b = true ∧ ∀ e, l.idxOf e < l.idxOf b → p e = false := by
  induction l with
  | nil => cases hb
  | cons x l ih =>
    by_cases hxb : x = b
    · subst hxb
      have hfind : (x :: l).find? p = some x ↔ p x = true :=
        ⟨List.find?_some, fun hx => List.find?_cons_of_pos hx⟩
      simp [hfind]
    · simp only [idxOf_cons_lt_idxOf_cons hxb, or_imp, forall_and, forall_eq']
      cases hx : p x
      · have hl : b ∈ l := (List.mem_cons.mp hb).resolve_left (Ne.symm hxb)
        simp [hx, ih hl]
      · simp [hx, hxb]

end

/-! ### Regions and the order of the devices (R72, R77) -/

theorem inRegion_iff_of_present {c : Config} {d : Device} {a : Word} (h : devicePresent c d = true) :
    inRegion c d a = true ↔ regionBase c d ≤ a.toNat ∧ a.toNat < regionBase c d + regionSize d := by
  rw [inRegion_iff, and_iff_right h]

/-- The order in which the devices are asked (R77). -/
def deviceOrder : List Device := [.sysctl, .keyboard, .timer, .uart, .framebuffer]

theorem mem_deviceOrder (d : Device) : d ∈ deviceOrder := by
  cases d <;> decide

/-- `deviceAt` is the search for the first region that holds the address. -/
theorem deviceAt_eq_find? (c : Config) (a : Word) : deviceAt c a = deviceOrder.find? (inRegion c · a) := by
  simp only [deviceAt, deviceOrder, find?_cons_eq_ite, List.find?_nil]

theorem deviceAt_eq_some_iff {c : Config} {a : Word} {d : Device} :
    deviceAt c a = some d ↔
      inRegion c d a = true ∧ ∀ e, deviceOrder.idxOf e < deviceOrder.idxOf d → inRegion c e a = false := by
  rw [deviceAt_eq_find?, find?_eq_some_iff_idxOf (mem_deviceOrder d)]

theorem deviceAt_eq_none_iff {c : Config} {a : Word} : deviceAt c a = none ↔ ∀ d, inRegion c d a = false := by
  simp [deviceAt_eq_find?, mem_deviceOrder]

/-! ### What an access reaches (R75) -/

theorem classify_eq_dev_iff {c : Config} {a : Word} {n : Nat} {d : Device} :
    classify c a n = .dev d (a.toNat - regionBase c d) ↔ deviceAt c a = some d := by
  unfold classify
  split
  next e he =>
    rw [he, Target.dev.injEq, Option.some.injEq]
    exact and_iff_left_of_imp fun h => h ▸ rfl
  next he =>
    rw [he]
    split <;> simp

theorem classify_eq_ram_iff {c : Config} {a : Word} {n : Nat} :
    classify c a n = .ram ↔ deviceAt c a = none ∧ a.toNat + n ≤ c.memSize := by
  cases h : deviceAt c a with
  | none => simp [classify, h]
  | some d => simp [classify, h]

theorem classify_eq_outOfRange_iff {c : Config} {a : Word} {n : Nat} :
    classify c a n = .outOfRange ↔ deviceAt c a = none ∧ c.memSize < a.toNat + n := by
  cases h : deviceAt c a with
  | none => simp [classify, h]
  | some d => simp [classify, h]

/-- Settles O48: each region is its presence and range; a device answers when it is the first of `deviceOrder` whose region
holds the address; the other two targets are what is left when none does. -/
theorem classification : Obligations.Classification := by
  intro c a n
  refine ⟨?sysctl, ?keyboard, ?timer, ?uart, ?framebuffer, ⟨rfl, rfl, rfl, rfl, rfl⟩, fun d => ?dev, ?ram, ?out⟩
  case sysctl => exact inRegion_iff_of_present rfl
  case keyboard => exact inRegion_iff c .keyboard a
  case timer => exact inRegion_iff_of_present rfl
  case uart => exact inRegion_iff_of_present rfl
  case framebuffer => exact inRegion_iff c .framebuffer a
  case dev => exact classify_eq_dev_iff.trans deviceAt_eq_some_iff
  case ram => rw [classify_eq_ram_iff, deviceAt_eq_none_iff]
  case out => rw [classify_eq_outOfRange_iff, deviceAt_eq_none_iff]

end Sys2Proof.Machine
end

section
/-! SUPPORT. Strict decoding (30_encoding.md R133): the opcode table's rows by the fields they fix, each part of the
decoder against the rows of its opcode, and the proof of the statement. -/

namespace Sys2Proof.Machine

/-! ### The fields of a word written as a number -/

section
variable (n : Nat)

theorem extractLsb'_ofNat {s l : Nat} (h : s + l ≤ 32) :
    (BitVec.ofNat 32 n).extractLsb' s l = BitVec.ofNat l (n >>> s) := by
  apply BitVec.eq_of_getLsbD_eq
  intro i hi
  have hs : s + i < 32 := by omega
  simp only [BitVec.getLsbD_extractLsb', BitVec.getLsbD_ofNat, Nat.testBit_shiftRight, hi, hs, decide_true,
    Bool.true_and]

@[simp] theorem opcodeF_ofNat : opcodeF (BitVec.ofNat 32 n) = BitVec.ofNat 7 n := extractLsb'_ofNat n (by decide)
@[simp] theorem rdF_ofNat : rdF (BitVec.ofNat 32 n) = BitVec.ofNat 5 (n >>> 7) := extractLsb'_ofNat n (by decide)
@[simp] theorem funct3F_ofNat : funct3F (BitVec.ofNat 32 n) = BitVec.ofNat 3 (n >>> 12) :=
  extractLsb'_ofNat n (by decide)
@[simp] theorem rs1F_ofNat : rs1F (BitVec.ofNat 32 n) = BitVec.ofNat 5 (n >>> 15) := extractLsb'_ofNat n (by decide)
@[simp] theorem rs2F_ofNat : rs2F (BitVec.ofNat 32 n) = BitVec.ofNat 5 (n >>> 20) := extractLsb'_ofNat n (by decide)
@[simp] theorem funct7F_ofNat : funct7F (BitVec.ofNat 32 n) = BitVec.ofNat 7 (n >>> 25) :=
  extractLsb'_ofNat n (by decide)

end

/-! ### A field under a mask -/

section
variable (w : Word)

/-- A mask that covers a whole field, of each width a field has. -/
@[simp] theorem and_mask3 (x : BitVec 3) : x &&& 7#3 = x := BitVec.and_allOnes
@[simp] theorem and_mask5 (x : BitVec 5) : x &&& 31#5 = x := BitVec.and_allOnes
@[simp] theorem and_mask7 (x : BitVec 7) : x &&& 127#7 = x := BitVec.and_allOnes

theorem extractLsb'_funct7F : (funct7F w).extractLsb' 2 5 = funct5F w := by
  conv_rhs => rw [← encR_fields w]
  exact (funct7_slice_encR _ _ _ _ _ _ 27 5 (by decide)).symm

/-- The mask of an AMO row covers `funct5` and leaves `aq` and `rl` free. -/
@[simp] theorem funct7F_and_eq_iff_funct5F (f : BitVec 7) :
    funct7F w &&& 124#7 = f ↔ funct5F w = f.extractLsb' 2 5 ∧ f.extractLsb' 0 2 = 0#2 := by
  have join (x : BitVec 7) : x.extractLsb' 2 5 ++ x.extractLsb' 0 2 = x := (slice_join x 0 2 5).trans (extract_all x)
  have hhigh : (funct7F w &&& 124#7).extractLsb' 2 5 = funct5F w := by
    rw [BitVec.extractLsb'_and, extractLsb'_funct7F]
    exact and_mask5 _
  have hlow : (funct7F w &&& 124#7).extractLsb' 0 2 = 0#2 := by
    rw [BitVec.extractLsb'_and]
    exact BitVec.and_zero
  constructor
  · rintro rfl
    exact ⟨hhigh.symm, hlow⟩
  · rintro ⟨h5, h0⟩
    rw [← join (funct7F w &&& 124#7), hhigh, hlow, h5, ← h0, join]

/-! ### Rows by fields (R121, R133) -/

/-- Words are equal when their fields are. -/
theorem word_eq_iff_fields (v : Word) :
    w = v ↔ opcodeF w = opcodeF v ∧ funct3F w = funct3F v ∧ funct7F w = funct7F v ∧
      rs2F w = rs2F v ∧ rs1F w = rs1F v ∧ rdF w = rdF v := by
  constructor
  · rintro rfl
    simp
  · rintro ⟨hop, h3, h7, h2, h1, hd⟩
    rw [← encR_fields w, hop, h3, h7, h2, h1, hd, encR_fields]

/-- A word matches a row when each of its fields has the row's value under the row's mask. -/
@[simp] theorem matchesWord_eq (m v : Word) :
    (OpcodeRow.mk m v).matchesWord w = decide
      (opcodeF w &&& opcodeF m = opcodeF v ∧ funct3F w &&& funct3F m = funct3F v ∧
       funct7F w &&& funct7F m = funct7F v ∧ rs2F w &&& rs2F m = rs2F v ∧
       rs1F w &&& rs1F m = rs1F v ∧ rdF w &&& rdF m = rdF v) := by
  have h : w &&& m = v ↔ _ := word_eq_iff_fields (w &&& m) v
  simp only [opcodeF, funct3F, funct7F, rs2F, rs1F, rdF, BitVec.extractLsb'_and] at h
  exact decide_eq_decide.mpr h

end

/-- The rows of the table with one opcode. -/
def rowsOf (op : BitVec 7) : List OpcodeRow := opcodeTable32.filter fun r => opcodeF r.value == op

section
variable {w : Word}

/-- Every row fixes the whole opcode, so a row that the word matches has the word's opcode. -/
theorem mem_rowsOf_of_matchesWord {r : OpcodeRow} (hr : r ∈ opcodeTable32) (hm : r.matchesWord w = true) :
    r ∈ rowsOf (opcodeF w) := by
  have hmask : ∀ q ∈ opcodeTable32, opcodeF q.mask = 127#7 := by decide
  obtain ⟨hop, -⟩ := of_decide_eq_true ((matchesWord_eq w r.mask r.value).symm.trans hm)
  rw [hmask r hr, and_mask7] at hop
  exact List.mem_filter.mpr ⟨hr, beq_iff_eq.mpr hop.symm⟩

/-- The values of two rows differ in a bit that both rows fix. -/
def RowsConflict (r q : OpcodeRow) : Prop := r.value &&& q.mask ≠ q.value &&& r.mask

theorem opcodeTable32_pairwise_conflict : opcodeTable32.Pairwise RowsConflict := by
  unfold RowsConflict
  decide

theorem not_rowsConflict_of_matchesWord {r q : OpcodeRow} (hr : r.matchesWord w = true)
    (hq : q.matchesWord w = true) : ¬ RowsConflict r q := by
  rw [RowsConflict, not_not, ← eq_of_beq hr, ← eq_of_beq hq, BitVec.and_assoc, BitVec.and_assoc,
    BitVec.and_comm r.mask]

theorem row_unique {r q : OpcodeRow} (hr : r ∈ opcodeTable32) (hq : q ∈ opcodeTable32)
    (hrw : r.matchesWord w = true) (hqw : q.matchesWord w = true) : r = q := by
  by_contra hne
  have hsymm : Std.Symm RowsConflict := ⟨fun _ _ h => h.symm⟩
  exact not_rowsConflict_of_matchesWord hrw hqw (opcodeTable32_pairwise_conflict.forall hr hq hne)

/-! ### Strict decoding by a list of rows -/

/-- A decoding of `w` is strict by `rows`: an instruction is that of one of them, which `w` matches, and there is none
only when `w` matches none of them. -/
def StrictBy (rows : List OpcodeRow) (w : Word) : Option Instr → Prop
  | some i => i.row ∈ rows ∧ i.row.matchesWord w = true
  | none => ∀ r ∈ rows, r.matchesWord w = false

@[simp] theorem strictBy_some {rows : List OpcodeRow} {i : Instr} :
    StrictBy rows w (some i) ↔ i.row ∈ rows ∧ i.row.matchesWord w = true := Iff.rfl

@[simp] theorem strictBy_none {rows : List OpcodeRow} :
    StrictBy rows w none ↔ ∀ r ∈ rows, r.matchesWord w = false := Iff.rfl

/-- Only the rows of the word's opcode need to be looked at. -/
theorem StrictBy.of_rowsOf {d : Option Instr} (h : StrictBy (rowsOf (opcodeF w)) w d) : StrictBy opcodeTable32 w d := by
  cases d with
  | some i => exact ⟨List.mem_of_mem_filter h.1, h.2⟩
  | none =>
    intro r hr
    by_contra hm
    rw [Bool.not_eq_false] at hm
    exact absurd hm (Bool.eq_false_iff.mp (h r (mem_rowsOf_of_matchesWord hr hm)))

/-! ### Each part of the decoder (R131, R132)

A branch that gives an instruction has fixed exactly the fields that the instruction's row fixes; a branch that gives none
has ruled out the fields of every row of its opcode. -/

theorem decodeBranch_strict (h : opcodeF w = 0x63#7) : StrictBy (rowsOf (opcodeF w)) w (decodeBranch w) := by
  unfold decodeBranch
  split <;> simp_all [rowsOf, opcodeTable32, Instr.row]

theorem decodeLoad_strict (h : opcodeF w = 0x03#7) : StrictBy (rowsOf (opcodeF w)) w (decodeLoad w) := by
  unfold decodeLoad
  split <;> simp_all [rowsOf, opcodeTable32, Instr.row]

theorem decodeStore_strict (h : opcodeF w = 0x23#7) : StrictBy (rowsOf (opcodeF w)) w (decodeStore w) := by
  unfold decodeStore
  split <;> simp_all [rowsOf, opcodeTable32, Instr.row]

theorem decodeOpImm_strict (h : opcodeF w = 0x13#7) : StrictBy (rowsOf (opcodeF w)) w (decodeOpImm w) := by
  unfold decodeOpImm
  split
  -- funct3 001 and 101: the shifts, which fix funct7 as well
  case h_7 => split <;> simp_all [rowsOf, opcodeTable32, Instr.row]
  case h_8 => split <;> simp_all [rowsOf, opcodeTable32, Instr.row]
  all_goals simp_all [rowsOf, opcodeTable32, Instr.row]

theorem decodeOpBase_strict (h : opcodeF w = 0x33#7) (h7 : funct7F w = 0#7) :
    StrictBy (rowsOf (opcodeF w)) w (decodeOpBase w) := by
  unfold decodeOpBase
  split <;> simp_all [rowsOf, opcodeTable32, Instr.row]

theorem decodeOpAlt_strict (h : opcodeF w = 0x33#7) (h7 : funct7F w = 0x20#7) :
    StrictBy (rowsOf (opcodeF w)) w (decodeOpAlt w) := by
  unfold decodeOpAlt
  split <;> simp_all [rowsOf, opcodeTable32, Instr.row]

theorem decodeOpMul_strict (h : opcodeF w = 0x33#7) (h7 : funct7F w = 1#7) :
    StrictBy (rowsOf (opcodeF w)) w (decodeOpMul w) := by
  unfold decodeOpMul
  split <;> simp_all [rowsOf, opcodeTable32, Instr.row]

theorem decodeOp_strict (h : opcodeF w = 0x33#7) : StrictBy (rowsOf (opcodeF w)) w (decodeOp w) := by
  unfold decodeOp
  split
  case h_1 h7 => exact decodeOpBase_strict h h7
  case h_2 h7 => exact decodeOpAlt_strict h h7
  case h_3 h7 => exact decodeOpMul_strict h h7
  case h_4 => simp_all [rowsOf, opcodeTable32]

theorem decodeMiscMem_strict (h : opcodeF w = 0x0F#7) : StrictBy (rowsOf (opcodeF w)) w (decodeMiscMem w) := by
  unfold decodeMiscMem
  split <;> simp_all [rowsOf, opcodeTable32, Instr.row]

theorem decodeSystem_strict (h : opcodeF w = 0x73#7) : StrictBy (rowsOf (opcodeF w)) w (decodeSystem w) := by
  unfold decodeSystem
  split
  -- funct3 000: ECALL and EBREAK, whose rows are whole words
  case h_1 h3 =>
    split
    next hecall => simp [rowsOf, opcodeTable32, Instr.row, hecall]
    split
    next hebreak => simp [rowsOf, opcodeTable32, Instr.row, hebreak]
    next hecall hebreak =>
      rw [word_eq_iff_fields] at hecall hebreak
      simp_all [rowsOf, opcodeTable32]
  all_goals simp_all [rowsOf, opcodeTable32, Instr.row]

theorem decodeAmo_strict (h : opcodeF w = 0x2F#7) : StrictBy (rowsOf (opcodeF w)) w (decodeAmo w) := by
  unfold decodeAmo
  split
  case h_1 =>
    split
    -- LR.W, whose row fixes rs2 as well
    case h_1 => split <;> simp_all [rowsOf, opcodeTable32, Instr.row]
    all_goals simp_all [rowsOf, opcodeTable32, Instr.row]
  case h_2 => simp_all [rowsOf, opcodeTable32]

/-- The major opcodes of R131. -/
theorem opcodeF_value_mem {r : OpcodeRow} (hr : r ∈ opcodeTable32) :
    opcodeF r.value ∈
      [0x37#7, 0x17#7, 0x6F#7, 0x67#7, 0x63#7, 0x03#7, 0x23#7, 0x13#7, 0x33#7, 0x0F#7, 0x73#7, 0x2F#7] := by
  revert r
  decide

theorem decode32_strict_rowsOf (w : Word) : StrictBy (rowsOf (opcodeF w)) w (decode32 w) := by
  unfold decode32
  split
  -- JALR, whose row fixes funct3 as well
  case h_4 => split <;> simp_all [rowsOf, opcodeTable32, Instr.row]
  case h_5 h => exact decodeBranch_strict h
  case h_6 h => exact decodeLoad_strict h
  case h_7 h => exact decodeStore_strict h
  case h_8 h => exact decodeOpImm_strict h
  case h_9 h => exact decodeOp_strict h
  case h_10 h => exact decodeMiscMem_strict h
  case h_11 h => exact decodeSystem_strict h
  case h_12 h => exact decodeAmo_strict h
  -- an opcode of no row
  case h_13 =>
    intro r hr
    obtain ⟨hr, hop⟩ := List.mem_filter.mp hr
    have hmem := eq_of_beq hop ▸ opcodeF_value_mem hr
    simp_all
  all_goals simp_all [rowsOf, opcodeTable32, Instr.row]

end

theorem decode32_strict (w : Word) : StrictBy opcodeTable32 w (decode32 w) := (decode32_strict_rowsOf w).of_rowsOf

theorem decode32_eq_none_iff (w : Word) : decode32 w = none ↔ ∀ r ∈ opcodeTable32, r.matchesWord w = false := by
  have hstrict := decode32_strict w
  cases hd : decode32 w with
  | none =>
    rw [hd] at hstrict
    exact ⟨fun _ => hstrict, fun _ => rfl⟩
  | some i =>
    rw [hd] at hstrict
    obtain ⟨hmem, hmatch⟩ := hstrict
    exact ⟨nofun, fun hno => absurd hmatch (Bool.eq_false_iff.mp (hno i.row hmem))⟩

/-- Settles O20: the decoder is strict by the table, the table's rows are disjoint, and a word of no row is fetched and
found illegal. -/
theorem oneRowPerWord : Obligations.OneRowPerWord := by
  refine ⟨fun w i hd => ?row, fun w r q hr hq => row_unique hr hq, decode32_eq_none_iff, ?halt⟩
  case row =>
    have hstrict := decode32_strict w
    rwa [hd] at hstrict
  case halt =>
    rintro s w hrun hquit heven hfirst hsecond rfl hlong hno
    rw [extract_right _ _ 0 2 (by decide)] at hlong
    exact step_illegal hrun hquit (fetch_word heven hfirst hlong hsecond) ((decode32_eq_none_iff _).mpr hno)

end Sys2Proof.Machine
end

section
/-! SUPPORT. How a step ends (40_step_cycle.md R170, R176, R177): the four outcomes, and the proofs of the statements. -/

namespace Sys2Proof.Machine

/-! ### The flag and the status before a fetch (R47, R176) -/

/-- A set quit flag is seen before any fetch. -/
theorem step_quit {s : State} (hr : s.status = .running) (hq : s.dev.quit = true) :
    step s = .next { s with status := .quit } := by
  simp only [step, hr, if_true, hq, quitRun]

theorem step_notRunning {s : State} (hr : s.status ≠ .running) : step s = .fault (.notRunning s.status) := if_neg hr

/-! ### The four outcomes (R170) -/

/-- Retiring after basic changes leaves the status and counts one instruction. -/
theorem Effects.status_instret_retire {s u : State} (h : Effects s u) (rd : RegIdx) (v n : Word) :
    (retire n (writeReg rd v u)).status = s.status ∧
      (retire n (writeReg rd v u)).instret = s.instret + 1#64 :=
  ⟨h.same.status, congrArg (· + 1#64) h.same.instret⟩

/-- A step from a running state retires, or changes the status alone; it quits only on a set flag. -/
theorem StepCases.outcome {s t : State} (h : StepCases s t) (hr : s.status = .running) :
    (t.status = .running ∧ t.instret = s.instret + 1#64) ∨
      (∃ r a, t = { s with status := .halted r a }) ∨
      (∃ c, t = { s with status := .exited c }) ∨
      (s.dev.quit = true ∧ t = { s with status := .quit }) := by
  cases h with
  | quit hq => exact .inr (.inr (.inr ⟨hq, rfl⟩))
  | halts r a => exact .inr (.inl ⟨r, a, rfl⟩)
  | exits c => exact .inr (.inr (.inl ⟨c, rfl⟩))
  | retires _ _ hu rd v n _ => exact .inl (hr ▸ hu.status_instret_retire rd v n)

/-- A step retires, or it leaves everything but the status as it was. -/
theorem step_retires_or_frame {s t : State} (h : step s = .next t) :
    (t.status = .running ∧ t.instret = s.instret + 1#64) ∨ t = { s with status := t.status } := by
  obtain ⟨hr, hcases⟩ := step_cases h
  obtain hret | ⟨r, a, rfl⟩ | ⟨c, rfl⟩ | ⟨-, rfl⟩ := hcases.outcome hr
  · exact .inl hret
  all_goals exact .inr rfl

/-- Only a set flag makes a step quit. -/
theorem status_ne_quit_of_step {s t : State} (hq : s.dev.quit = false) (h : step s = .next t) : t.status ≠ .quit := by
  obtain ⟨hr, hcases⟩ := step_cases h
  obtain ⟨hrun, -⟩ | ⟨r, a, rfl⟩ | ⟨c, rfl⟩ | ⟨hset, -⟩ := hcases.outcome hr
  · simp [hrun]
  · simp
  · simp
  · simp [hq] at hset

/-- Settles O6: a running state has a step, which ends in one of its four ways; any other state faults. -/
theorem stepOutcomes : Obligations.StepOutcomes := by
  refine ⟨fun s hr => ?_, fun s hr => step_notRunning hr⟩
  obtain ⟨t, ht⟩ := step_next hr
  obtain ⟨-, hcases⟩ := step_cases ht
  exact ⟨t, ht, hcases.outcome hr⟩

/-- Settles O10: a step that does not retire leaves everything but the status. -/
theorem haltChangesNothing : Obligations.HaltChangesNothing := by
  intro s t h hended
  obtain ⟨hrun, -⟩ | hframe := step_retires_or_frame h
  · exact absurd hrun hended
  · exact hframe

/-- Settles O7: the flag ends the run before any fetch, no other step quits, and a step that sets the flag retires, since
one that does not retire leaves the devices as they were. -/
theorem quitStep : Obligations.QuitStep := by
  refine ⟨fun s => step_quit, fun s t _ hq => status_ne_quit_of_step hq, fun s t _ hq h hset => ?sets,
    fun s => rfl, fun n => Iff.rfl⟩
  case sets =>
    obtain hret | hframe := step_retires_or_frame h
    · exact hret
    · have hdev : t.dev = s.dev := (congrArg State.dev hframe :)
      rw [hdev, hq] at hset
      cases hset

end Sys2Proof.Machine
end

section
/-! SUPPORT. The integer computational instructions (41_integer_computational.md): each layout from the fields that its part
of the decoder reads, each effect from the shared operation that its meaning is, and the proofs of the statements. -/

namespace Sys2Proof.Machine

/-! ### A layout from the decoder's fields (R122, R131) -/

section
variable {f7 : BitVec 7} {f3 : BitVec 3} {op : BitVec 7}

theorem layoutU_of_decode32 {mk : RegIdx → BitVec 20 → Instr}
    (h : ∀ w, opcodeF w = op → decode32 w = some (mk (rdF w) (immU w))) : LayoutU op mk := by
  intro imm rd
  have hdecode := h (encU imm rd op) (opcodeF_encU ..)
  rw [rdF_encU, immU_encU] at hdecode
  exact hdecode

theorem layoutI_of_decode32 {mk : RegIdx → RegIdx → BitVec 12 → Instr}
    (h : ∀ w, opcodeF w = op → funct3F w = f3 → decode32 w = some (mk (rdF w) (rs1F w) (immI w))) :
    LayoutI f3 op mk := by
  intro imm rs1 rd
  have hdecode := h (encI imm rs1 f3 rd op) (opcodeF_encI ..) (funct3F_encI ..)
  rw [rdF_encI, rs1F_encI, immI_encI] at hdecode
  exact hdecode

theorem layoutR_of_decode32 {mk : RegIdx → RegIdx → RegIdx → Instr}
    (h : ∀ w, opcodeF w = op → funct7F w = f7 → funct3F w = f3 → decode32 w = some (mk (rdF w) (rs1F w) (rs2F w))) :
    LayoutR f7 f3 op mk := by
  intro rs2 rs1 rd
  have hdecode := h (encR f7 rs2 rs1 f3 rd op) (opcodeF_encR ..) (funct7F_encR ..) (funct3F_encR ..)
  rw [rdF_encR, rs1F_encR, rs2F_encR] at hdecode
  exact hdecode

end

/-! ### The parts of the decoder for OP-IMM and OP (R132) -/

section
variable {w : Word}

theorem decode32_of_opImm (h : opcodeF w = 0x13#7) : decode32 w = decodeOpImm w := by
  simp only [decode32, h]

theorem decode32_of_op (h : opcodeF w = 0x33#7) : decode32 w = decodeOp w := by
  simp only [decode32, h]

theorem decodeOp_of_base (h : funct7F w = 0#7) : decodeOp w = decodeOpBase w := by
  simp only [decodeOp, h]

theorem decodeOp_of_alt (h : funct7F w = 0x20#7) : decodeOp w = decodeOpAlt w := by
  simp only [decodeOp, h]

end

section
variable {f3 : BitVec 3}

theorem layoutI_of_decodeOpImm {mk : RegIdx → RegIdx → BitVec 12 → Instr}
    (h : ∀ w, funct3F w = f3 → decodeOpImm w = some (mk (rdF w) (rs1F w) (immI w))) : LayoutI f3 0x13#7 mk :=
  layoutI_of_decode32 fun w hop h3 => (decode32_of_opImm hop).trans (h w h3)

variable {mk : RegIdx → RegIdx → RegIdx → Instr}

/-- The immediate shifts have the R layout, with the shift amount in the place of rs2 (R128). -/
theorem layoutR_of_decodeOpImm {f7 : BitVec 7}
    (h : ∀ w, funct7F w = f7 → funct3F w = f3 → decodeOpImm w = some (mk (rdF w) (rs1F w) (rs2F w))) :
    LayoutR f7 f3 0x13#7 mk :=
  layoutR_of_decode32 fun w hop h7 h3 => (decode32_of_opImm hop).trans (h w h7 h3)

theorem layoutR_of_decodeOpBase
    (h : ∀ w, funct3F w = f3 → decodeOpBase w = some (mk (rdF w) (rs1F w) (rs2F w))) : LayoutR 0#7 f3 0x33#7 mk :=
  layoutR_of_decode32 fun w hop h7 h3 => ((decode32_of_op hop).trans (decodeOp_of_base h7)).trans (h w h3)

theorem layoutR_of_decodeOpAlt
    (h : ∀ w, funct3F w = f3 → decodeOpAlt w = some (mk (rdF w) (rs1F w) (rs2F w))) : LayoutR 0x20#7 f3 0x33#7 mk :=
  layoutR_of_decode32 fun w hop h7 h3 => ((decode32_of_op hop).trans (decodeOp_of_alt h7)).trans (h w h3)

end

/-! ### The values in the statements' terms -/

/-- `s(a) < s(b) ? 1 : 0` (R206, R218). -/
theorem sltWord_eq (a b : Word) : sltWord a b = if a.toInt < b.toInt then 1#32 else 0#32 := by
  simp only [sltWord, ltS, boolWord, decide_eq_true_eq]

/-- `u(a) < u(b) ? 1 : 0` (R207, R219). -/
theorem sltuWord_eq (a b : Word) : sltuWord a b = if a.toNat < b.toNat then 1#32 else 0#32 := by
  simp only [sltuWord, ltU, boolWord, decide_eq_true_eq]

/-- The low five bits of a register are its value modulo 32 (R128). -/
theorem regShamt_eq (v : Word) : regShamt v = v.toNat % 32 := by
  simp [regShamt]

/-- A shift by a register is the shift by its value modulo 32 (R217, R221, R222). -/
theorem byReg_eq (f : Word → Nat → Word) (a b : Word) : byReg f a b = f a (b.toNat % 32) := by
  rw [byReg, regShamt_eq]

/-! ### What an instruction does whose meaning is one of the shared operations (R442) -/

section
variable {i : Instr} {s : State} {ilen v : Word} {rd rs1 : RegIdx}

theorem completes_of_setOp (h : exec i s = setOp ilen rd v s) : Completes i s rd v (s.pc + ilen) :=
  completesFrom_of_retireWith h

theorem completes_of_immOp {f : Word → Word → Word} {b : Word} (h : exec i s = immOp f ilen rd rs1 b s)
    (hv : f (readReg rs1 s) b = v) : Completes i s rd v (s.pc + ilen) :=
  completesFrom_of_retireWith (hv ▸ h)

theorem completes_of_shiftOp {f : Word → Nat → Word} {shamt : BitVec 5} (h : exec i s = shiftOp f ilen rd rs1 shamt s)
    (hv : f (readReg rs1 s) shamt.toNat = v) : Completes i s rd v (s.pc + ilen) :=
  completesFrom_of_retireWith (hv ▸ h)

theorem completes_of_regOp {f : Word → Word → Word} {rs2 : RegIdx} (h : exec i s = regOp f ilen rd rs1 rs2 s)
    (hv : f (readReg rs1 s) (readReg rs2 s) = v) : Completes i s rd v (s.pc + ilen) :=
  completesFrom_of_retireWith (hv ▸ h)

end

/-- Settles O23: each layout from its part of the decoder; each meaning is `setOp`, `immOp` or `shiftOp`. -/
theorem immediateForms : Obligations.ImmediateForms := by
  refine ⟨⟨?lui, fun _ _ _ => completes_of_setOp rfl⟩,
    ⟨?auipc, fun _ _ _ => completes_of_setOp rfl⟩,
    ⟨?addi, fun _ _ _ _ => completes_of_immOp rfl rfl⟩,
    ⟨?slti, fun _ _ _ _ => completes_of_immOp rfl (sltWord_eq _ _)⟩,
    ⟨?sltiu, fun _ _ _ _ => completes_of_immOp rfl (sltuWord_eq _ _)⟩,
    ⟨?xori, fun _ _ _ _ => completes_of_immOp rfl rfl⟩,
    ⟨?ori, fun _ _ _ _ => completes_of_immOp rfl rfl⟩,
    ⟨?andi, fun _ _ _ _ => completes_of_immOp rfl rfl⟩,
    ⟨?slli, fun _ _ _ _ => completes_of_shiftOp rfl rfl⟩,
    ⟨?srli, fun _ _ _ _ => completes_of_shiftOp rfl rfl⟩,
    ⟨?srai, fun _ _ _ _ => completes_of_shiftOp rfl rfl⟩⟩
  case lui | auipc => exact layoutU_of_decode32 fun w hop => by simp only [decode32, hop]
  case slli | srli | srai => exact layoutR_of_decodeOpImm fun w h7 h3 => by simp only [decodeOpImm, h3, h7]
  all_goals exact layoutI_of_decodeOpImm fun w h3 => by simp only [decodeOpImm, h3]

/-- Settles O24: SUB and SRA are the two of `decodeOpAlt`, the other eight of `decodeOpBase`; each meaning is `regOp`. -/
theorem registerForms : Obligations.RegisterForms := by
  refine ⟨⟨?add, fun _ _ _ _ => completes_of_regOp rfl rfl⟩,
    ⟨?sub, fun _ _ _ _ => completes_of_regOp rfl rfl⟩,
    ⟨?sll, fun _ _ _ _ => completes_of_regOp rfl (byReg_eq sllWord _ _)⟩,
    ⟨?slt, fun _ _ _ _ => completes_of_regOp rfl (sltWord_eq _ _)⟩,
    ⟨?sltu, fun _ _ _ _ => completes_of_regOp rfl (sltuWord_eq _ _)⟩,
    ⟨?xor, fun _ _ _ _ => completes_of_regOp rfl rfl⟩,
    ⟨?srl, fun _ _ _ _ => completes_of_regOp rfl (byReg_eq srlWord _ _)⟩,
    ⟨?sra, fun _ _ _ _ => completes_of_regOp rfl (byReg_eq sraWord _ _)⟩,
    ⟨?or, fun _ _ _ _ => completes_of_regOp rfl rfl⟩,
    ⟨?and, fun _ _ _ _ => completes_of_regOp rfl rfl⟩⟩
  case sub | sra => exact layoutR_of_decodeOpAlt fun w h3 => by simp only [decodeOpAlt, h3]
  all_goals exact layoutR_of_decodeOpBase fun w h3 => by simp only [decodeOpBase, h3]

end Sys2Proof.Machine
end

section
/-! SUPPORT. Control transfer (42_control_transfer.md): the layouts of the jumps and branches, each effect from the shared
operation that its meaning is, and the proof of the statement. -/

namespace Sys2Proof.Machine

/-! ### The layouts of the jumps and branches (R122, R125, R127) -/

theorem layoutJ_of_decode32 {op : BitVec 7} {mk : RegIdx → BitVec 21 → Instr}
    (h : ∀ w, opcodeF w = op → decode32 w = some (mk (rdF w) (immJ w))) : LayoutJ op mk := by
  intro b20 b10 b11 b19 rd
  have hdecode := h (encU (b20 ++ b10 ++ b11 ++ b19) rd op) (opcodeF_encU ..)
  rw [rdF_encU, immJ_encU] at hdecode
  exact hdecode

section
variable {f3 : BitVec 3}

/-- The B layout is the R layout, with the immediate's pieces in the places of `funct7` and `rd`. -/
theorem encR_of_branch_pieces (b12 : BitVec 1) (b10 : BitVec 6) (rs2 rs1 : RegIdx) (b4 : BitVec 4) (b11 : BitVec 1)
    (op : BitVec 7) :
    b12 ++ b10 ++ rs2 ++ rs1 ++ f3 ++ b4 ++ b11 ++ op = encR (b12 ++ b10) rs2 rs1 f3 (b4 ++ b11) op :=
  congrArg (fun v : BitVec 25 => v ++ op) BitVec.append_assoc

theorem layoutB_of_decode32 {op : BitVec 7} {mk : RegIdx → RegIdx → BitVec 13 → Instr}
    (h : ∀ w, opcodeF w = op → funct3F w = f3 → decode32 w = some (mk (rs1F w) (rs2F w) (immB w))) :
    LayoutB f3 op mk := by
  intro b12 b10 rs2 rs1 b4 b11
  have hdecode := h (encR (b12 ++ b10) rs2 rs1 f3 (b4 ++ b11) op) (opcodeF_encR ..) (funct3F_encR ..)
  rw [rs1F_encR, rs2F_encR, immB_encR, ← encR_of_branch_pieces] at hdecode
  exact hdecode

theorem decode32_of_branch {w : Word} (h : opcodeF w = 0x63#7) : decode32 w = decodeBranch w := by
  simp only [decode32, h]

theorem layoutB_of_decodeBranch {mk : RegIdx → RegIdx → BitVec 13 → Instr}
    (h : ∀ w, funct3F w = f3 → decodeBranch w = some (mk (rs1F w) (rs2F w) (immB w))) : LayoutB f3 0x63#7 mk :=
  layoutB_of_decode32 fun w hop h3 => (decode32_of_branch hop).trans (h w h3)

/-- JALR has one minor opcode (R132). -/
theorem decode32_jalr_eq_none {w : Word} (hop : opcodeF w = 0x67#7) (h3 : funct3F w ≠ 0#3) : decode32 w = none := by
  -- `h3` rules out the one branch that gives an instruction
  simp only [decode32, hop]

end

/-! ### What an instruction does whose meaning is a jump or a branch (R442) -/

section
variable {i : Instr} {s : State} {ilen disp : Word} {rd rs1 rs2 : RegIdx}

theorem completes_of_jalOp (h : exec i s = jalOp ilen rd disp s) : Completes i s rd (s.pc + ilen) (s.pc + disp) :=
  completesFrom_of_retireWith h

/-- The target is that of `s`, where the link is not yet written (R251). -/
theorem completes_of_jalrOp (h : exec i s = jalrOp ilen rd rs1 disp s) :
    Completes i s rd (s.pc + ilen) ((readReg rs1 s + disp) &&& 0xFFFFFFFE#32) :=
  completesFrom_of_retireWith h

variable {cond : Word → Word → Bool} {p : Prop} [Decidable p]

theorem continues_of_branchOp (h : exec i s = branchOp cond ilen rs1 rs2 disp s)
    (hp : cond (readReg rs1 s) (readReg rs2 s) = true ↔ p) :
    Continues i s (if p then s.pc + disp else s.pc + ilen) := by
  refine ⟨_, h, ?_⟩
  simp only [hp]
  exact writesReg_retire_only s _

/-- A branch on the negation of `p`. -/
theorem continues_of_branchOp_not (h : exec i s = branchOp cond ilen rs1 rs2 disp s)
    (hp : cond (readReg rs1 s) (readReg rs2 s) = true ↔ ¬ p) :
    Continues i s (if p then s.pc + ilen else s.pc + disp) := by
  rw [← ite_not]
  exact continues_of_branchOp h hp

end

/-! ### The conditions in the statement's terms (R252 to R257) -/

section
variable (a b : Word)

theorem condEq_iff : condEq a b = true ↔ a = b := beq_iff_eq

theorem condNe_iff : condNe a b = true ↔ ¬ a = b := bne_iff_ne

theorem ltS_iff : ltS a b = true ↔ a.toInt < b.toInt := decide_eq_true_iff

theorem geS_iff : geS a b = true ↔ ¬ a.toInt < b.toInt := decide_eq_true_iff.trans not_lt.symm

theorem ltU_iff : ltU a b = true ↔ a.toNat < b.toNat := decide_eq_true_iff

theorem geU_iff : geU a b = true ↔ ¬ a.toNat < b.toNat := decide_eq_true_iff.trans not_lt.symm

end

/-- Settles O26: the layouts from the decoder; the jumps are `jalOp` and `jalrOp`, and each branch is `branchOp` on its
condition, where BNE, BGE and BGEU negate that of BEQ, BLT and BLTU. -/
theorem jumpsAndBranches : Obligations.JumpsAndBranches := by
  refine ⟨⟨?jal, fun _ _ _ => completes_of_jalOp rfl⟩,
    ⟨?jalr, ?otherMinor, fun _ _ _ _ => completes_of_jalrOp rfl⟩,
    ⟨?beq, fun _ _ _ _ => continues_of_branchOp rfl (condEq_iff _ _)⟩,
    ⟨?bne, fun _ _ _ _ => continues_of_branchOp_not rfl (condNe_iff _ _)⟩,
    ⟨?blt, fun _ _ _ _ => continues_of_branchOp rfl (ltS_iff _ _)⟩,
    ⟨?bge, fun _ _ _ _ => continues_of_branchOp_not rfl (geS_iff _ _)⟩,
    ⟨?bltu, fun _ _ _ _ => continues_of_branchOp rfl (ltU_iff _ _)⟩,
    ⟨?bgeu, fun _ _ _ _ => continues_of_branchOp_not rfl (geU_iff _ _)⟩⟩
  case jal => exact layoutJ_of_decode32 fun w hop => by simp only [decode32, hop]
  case jalr => exact layoutI_of_decode32 fun w hop h3 => by simp only [decode32, hop, h3]
  case otherMinor =>
    intro imm rs1 rd f3 h3
    exact decode32_jalr_eq_none (opcodeF_encI imm rs1 f3 rd _) ((funct3F_encI imm rs1 f3 rd _).trans_ne h3)
  all_goals exact layoutB_of_decodeBranch fun w h3 => by simp only [decodeBranch, h3]

end Sys2Proof.Machine
end

section
/-! SUPPORT. Loads and stores (43_load_store.md): the layouts from the decoder's fields, the extensions in the statements'
terms, each effect from `loadOp` or `storeOp` by what the address reaches, and the proofs of the statements. -/

namespace Sys2Proof.Machine

/-! ### The layouts of the loads and stores (R122, R124, R132) -/

section
variable {f3 : BitVec 3} {mk : RegIdx → RegIdx → BitVec 12 → Instr}

theorem decode32_of_load {w : Word} (h : opcodeF w = 0x03#7) : decode32 w = decodeLoad w := by
  simp only [decode32, h]

theorem decode32_of_store {w : Word} (h : opcodeF w = 0x23#7) : decode32 w = decodeStore w := by
  simp only [decode32, h]

theorem layoutI_of_decodeLoad
    (h : ∀ w, funct3F w = f3 → decodeLoad w = some (mk (rdF w) (rs1F w) (immI w))) : LayoutI f3 0x03#7 mk :=
  layoutI_of_decode32 fun w hop h3 => (decode32_of_load hop).trans (h w h3)

/-- The S layout is the R layout, with the immediate's pieces in the places of `funct7` and `rd`. -/
theorem layoutS_of_decode32 {op : BitVec 7}
    (h : ∀ w, opcodeF w = op → funct3F w = f3 → decode32 w = some (mk (rs1F w) (rs2F w) (immS w))) :
    LayoutS f3 op mk := by
  intro hi rs2 rs1 lo
  have hdecode := h (encR hi rs2 rs1 f3 lo op) (opcodeF_encR ..) (funct3F_encR ..)
  rw [rs1F_encR, rs2F_encR, immS_encR] at hdecode
  exact hdecode

theorem layoutS_of_decodeStore
    (h : ∀ w, funct3F w = f3 → decodeStore w = some (mk (rs1F w) (rs2F w) (immS w))) : LayoutS f3 0x23#7 mk :=
  layoutS_of_decode32 fun w hop h3 => (decode32_of_store hop).trans (h w h3)

end

/-! ### The extensions in the statements' terms (R271, R272, R274, R275) -/

section
variable (v : Word)

theorem extS8_eq : extS8 v = (v.setWidth 8).signExtend 32 :=
  congrArg sext (BitVec.setWidth_eq_extractLsb' (by decide)).symm

theorem extS16_eq : extS16 v = (v.setWidth 16).signExtend 32 :=
  congrArg sext (BitVec.setWidth_eq_extractLsb' (by decide)).symm

theorem extU8_eq : extU8 v = (v.setWidth 8).zeroExtend 32 :=
  congrArg zext (BitVec.setWidth_eq_extractLsb' (by decide)).symm

theorem extU16_eq : extU16 v = (v.setWidth 16).zeroExtend 32 :=
  congrArg zext (BitVec.setWidth_eq_extractLsb' (by decide)).symm

end

section
variable (f : Nat → Byte)

/-- The low byte of a byte read from RAM is that byte (R79). -/
theorem setWidth_leValue_byte : (leValue .byte f).setWidth 8 = f 0 :=
  (BitVec.setWidth_setWidth_of_le (f 0) (by decide)).trans (BitVec.setWidth_eq _)

/-- The low half of a halfword read from RAM is that halfword (R79). -/
theorem setWidth_leValue_half : (leValue .half f).setWidth 16 = f 1 ++ f 0 :=
  (BitVec.setWidth_setWidth_of_le (f 1 ++ f 0) (by decide)).trans (BitVec.setWidth_eq _)

end

/-! ### What an instruction does whose meaning is a load or a store (R270, R442) -/

section
variable {i : Instr} {s : State} {n : Width} {ilen disp : Word} {rs1 : RegIdx}

/-- `op` is the model's extension, `ext` the same in the statement's terms, and `val` its value on bytes of RAM. -/
theorem loadsAt_of_loadOp {op ext : Word → Word} {val : (Nat → Byte) → Word} {rd : RegIdx}
    (h : exec i s = loadOp n op ilen rd rs1 disp s) (hext : ∀ v, op v = ext v)
    (hval : ∀ f, ext (leValue n f) = val f) :
    LoadsAt i s rd n (readReg rs1 s + disp) (s.pc + ilen) val ext := by
  obtain rfl : op = ext := funext hext
  refine ⟨fun hram => ?ram, fun d o hdev => ?dev, fun hout => ?out⟩
  case ram =>
    rw [← hval]
    exact completesFrom_of_retireWith (h.trans (loadOp_some (memRead_ram hram)))
  case dev => exact completesFrom_of_retireWith (h.trans (loadOp_some (memRead_dev hdev)))
  case out => exact h.trans (loadOp_none (memRead_out hout))

variable {rs2 : RegIdx}

theorem completesFrom_of_storeOp {t : State} (h : exec i s = storeOp n ilen rs1 rs2 disp s)
    (hw : memWrite (readReg rs1 s + disp) n (readReg rs2 s) s = some t) :
    CompletesFrom i s t 0#5 0#32 (s.pc + ilen) :=
  ⟨_, h.trans (storeOp_some hw), writesReg_retire_only t _⟩

/-- A write to a device and its snoop change no byte of RAM. -/
theorem memByte_snoop_devWrite (d : Device) (o : Nat) (v : Word) (a m b : Nat) :
    memByte (resvSnoop a m (devWrite d o n v s)) b = memByte s b :=
  memByte_congr ((resvSnoop_mem ..).trans (devWrite_mem d o n v s)) b

theorem storesAt_of_storeOp (h : exec i s = storeOp n ilen rs1 rs2 disp s) :
    StoresAt i s n (readReg rs1 s + disp) (readReg rs2 s) (s.pc + ilen) (leBytes n (readReg rs2 s)) := by
  refine ⟨fun hram => ?ram, fun d o hdev => ?dev, fun hout => ?out⟩
  case ram => exact ⟨_, storesBytes_writeRam s _ _, completesFrom_of_storeOp h (memWrite_ram _ hram)⟩
  case dev =>
    exact ⟨_, rfl, memByte_snoop_devWrite d o _ _ _, completesFrom_of_storeOp h (memWrite_dev _ hdev)⟩
  case out => exact h.trans (storeOp_none (memWrite_out _ hout))

end

/-- Settles O27: each layout from `decodeLoad`; each meaning is `loadOp`, whose extension of a value read from RAM is the
extension of the bytes there. -/
theorem loads : Obligations.Loads := by
  refine ⟨⟨?lb, fun _ _ _ _ => loadsAt_of_loadOp rfl extS8_eq fun f => ?byteS⟩,
    ⟨?lh, fun _ _ _ _ => loadsAt_of_loadOp rfl extS16_eq fun f => ?halfS⟩,
    ⟨?lw, fun _ _ _ _ => loadsAt_of_loadOp rfl (fun _ => rfl) fun _ => rfl⟩,
    ⟨?lbu, fun _ _ _ _ => loadsAt_of_loadOp rfl extU8_eq fun f => ?byteU⟩,
    ⟨?lhu, fun _ _ _ _ => loadsAt_of_loadOp rfl extU16_eq fun f => ?halfU⟩⟩
  case byteS | byteU => rw [setWidth_leValue_byte]
  case halfS | halfU => rw [setWidth_leValue_half]
  all_goals exact layoutI_of_decodeLoad fun w h3 => by simp only [decodeLoad, h3]

/-- Settles O28: each layout from `decodeStore`; each meaning is `storeOp`, which stores the bytes of `leBytes`. -/
theorem stores : Obligations.Stores := by
  refine ⟨⟨?sb, fun _ _ _ _ => storesAt_of_storeOp rfl⟩,
    ⟨?sh, fun _ _ _ _ => storesAt_of_storeOp rfl⟩,
    ⟨?sw, fun _ _ _ _ => storesAt_of_storeOp rfl⟩⟩
  all_goals exact layoutS_of_decodeStore fun w h3 => by simp only [decodeStore, h3]

end Sys2Proof.Machine
end

section
/-! SUPPORT. Multiply and divide (44_muldiv.md): the layouts from the decoder's fields, the values in the statement's terms,
and the proof of the statement. -/

namespace Sys2Proof.Machine

/-! ### The layouts of the multiply and divide group (R132) -/

theorem decodeOp_of_mul {w : Word} (h : funct7F w = 1#7) : decodeOp w = decodeOpMul w := by
  simp only [decodeOp, h]

theorem layoutR_of_decodeOpMul {f3 : BitVec 3} {mk : RegIdx → RegIdx → RegIdx → Instr}
    (h : ∀ w, funct3F w = f3 → decodeOpMul w = some (mk (rdF w) (rs1F w) (rs2F w))) : LayoutR 1#7 f3 0x33#7 mk :=
  layoutR_of_decode32 fun w hop h7 h3 => ((decode32_of_op hop).trans (decodeOp_of_mul h7)).trans (h w h3)

/-! ### The values in the statement's terms (R301 to R304, R306) -/

/-- Bits 63..32 of a two's-complement value are its quotient by `2 ^ 32`, rounded down, modulo `2 ^ 32`. -/
theorem highWord_eq (p : Int) : highWord p = BitVec.ofInt 32 (p / 2 ^ 32) := by
  apply BitVec.eq_of_toNat_eq
  rw [highWord, BitVec.extractLsb'_toNat, BitVec.toNat_ofInt, BitVec.toNat_ofInt, Nat.shiftRight_eq_div_pow]
  omega

section
variable (a b : Word)

/-- The product is not negative, so its high word is a quotient of naturals (R303). -/
theorem mulhuWord_eq : mulhuWord a b = BitVec.ofNat 32 (a.toNat * b.toNat / 2 ^ 32) :=
  (highWord_eq _).trans (BitVec.ofInt_natCast 32 (a.toNat * b.toNat / 2 ^ 32))

theorem toInt_eq_zero_iff : b.toInt = 0 ↔ b = 0#32 :=
  BitVec.toInt_inj (y := 0#32)

/-- The one quotient that no word holds is `-2 ^ 31 / -1` (R304, R306). -/
theorem signed_overflow_iff : a.toInt = -2147483648 ∧ b.toInt = -1 ↔ a = 0x80000000#32 ∧ b = 0xFFFFFFFF#32 :=
  and_congr (BitVec.toInt_inj (y := 0x80000000#32)) (BitVec.toInt_inj (y := 0xFFFFFFFF#32))

theorem divWord_eq : divWord a b =
    if b = 0#32 then 0xFFFFFFFF#32
    else if a = 0x80000000#32 ∧ b = 0xFFFFFFFF#32 then 0x80000000#32
    else BitVec.ofInt 32 (a.toInt.tdiv b.toInt) := by
  simp only [divWord, toInt_eq_zero_iff, signed_overflow_iff]

theorem remWord_eq : remWord a b =
    if b = 0#32 then a
    else if a = 0x80000000#32 ∧ b = 0xFFFFFFFF#32 then 0#32
    else BitVec.ofInt 32 (a.toInt - b.toInt * a.toInt.tdiv b.toInt) := by
  simp only [remWord, toInt_eq_zero_iff, signed_overflow_iff]

end

/-- Settles O25: each layout from `decodeOpMul`; each meaning is `regOp`. The low word of a product is the product of words,
a high word is a quotient by `2 ^ 32`, and the signed divisions test their operands as integers. -/
theorem multiplyDivide : Obligations.MultiplyDivide := by
  refine ⟨⟨?mul, fun _ _ _ _ => completes_of_regOp rfl rfl⟩,
    ⟨?mulh, fun _ _ _ _ => completes_of_regOp rfl (highWord_eq _)⟩,
    ⟨?mulhsu, fun _ _ _ _ => completes_of_regOp rfl (highWord_eq _)⟩,
    ⟨?mulhu, fun _ _ _ _ => completes_of_regOp rfl (mulhuWord_eq _ _)⟩,
    ⟨?div, fun _ _ _ _ => completes_of_regOp rfl (divWord_eq _ _)⟩,
    ⟨?divu, fun _ _ _ _ => completes_of_regOp rfl rfl⟩,
    ⟨?rem, fun _ _ _ _ => completes_of_regOp rfl (remWord_eq _ _)⟩,
    ⟨?remu, fun _ _ _ _ => completes_of_regOp rfl rfl⟩⟩
  all_goals exact layoutR_of_decodeOpMul fun w h3 => by simp only [decodeOpMul, h3]

end Sys2Proof.Machine
end

section
/-! SUPPORT. Atomics (45_atomic.md): the layouts from the decoder's fields, the effect of LR.W, of SC.W and of the
read-modify-write by what the address reaches, and the proofs of the statements. -/

namespace Sys2Proof.Machine

/-! ### The layouts of the atomics (R122, R132) -/

theorem decode32_of_amo {w : Word} (h : opcodeF w = 0x2F#7) : decode32 w = decodeAmo w := by
  simp only [decode32, h]

theorem layoutA_of_decodeAmo {f5 : BitVec 5} {mk : RegIdx → RegIdx → RegIdx → Bool → Bool → Instr}
    (h : ∀ w, funct3F w = 2#3 → funct5F w = f5 → decodeAmo w = some (mk (rdF w) (rs1F w) (rs2F w) (aqF w) (rlF w))) :
    LayoutA f5 mk := by
  intro aq rl rs2 rs1 rd
  have hdecode := (decode32_of_amo (opcodeF_encA ..)).trans
    (h (encA f5 aq rl rs2 rs1 rd) (funct3F_encA ..) (funct5F_encA ..))
  rw [rdF_encA, rs1F_encA, rs2F_encA, aqF_encA, rlF_encA] at hdecode
  exact hdecode

/-- The word of LR.W is legal with the source register field 0 only (R335). -/
theorem decode32_encA_lr (aq rl : Bool) (rs2 rs1 rd : RegIdx) :
    decode32 (encA 2#5 aq rl rs2 rs1 rd) = if rs2 = 0#5 then some (.lrW rd rs1 aq rl) else none := by
  rw [decode32_of_amo (opcodeF_encA ..)]
  simp only [decodeAmo, funct3F_encA, funct5F_encA, rdF_encA, rs1F_encA, rs2F_encA, aqF_encA, rlF_encA]

/-! ### LR.W and SC.W (R332, R335, R336) -/

/-- A snoop before the reservation is cleared leaves no trace. -/
theorem clearResv_resvSnoop (a n : Nat) (s : State) : clearResv (resvSnoop a n s) = clearResv s := rfl

section
variable {rd rs1 rs2 : RegIdx} {aq rl : Bool} {s t : State}

theorem completesFrom_lrW {v : Word} (h : memRead (readReg rs1 s) .word s = some (v, t)) :
    CompletesFrom (.lrW rd rs1 aq rl) s (setResv (readReg rs1 s) t) rd v (s.pc + 4#32) := by
  have hexec : execLrW rd rs1 aq rl s = retireWith rd v (s.pc + 4#32) (setResv (readReg rs1 s) t) := by
    simp only [execLrW, h]
  exact completesFrom_of_retireWith hexec

theorem haltsWith_lrW (h : memRead (readReg rs1 s) .word s = none) :
    HaltsWith (.lrW rd rs1 aq rl) s .outOfRangeLoad (readReg rs1 s) := by
  have hexec : execLrW rd rs1 aq rl s = halt .outOfRangeLoad (readReg rs1 s) s := by
    simp only [execLrW, h]
  exact hexec

theorem scMatches_iff {ea : Word} : scMatches ea s = true ↔ s.resvValid = true ∧ s.resvAddr = ea := by
  simp only [scMatches, Bool.and_eq_true, beq_iff_eq]

theorem completesFrom_scW (hm : scMatches (readReg rs1 s) s = true)
    (h : memWrite (readReg rs1 s) .word (readReg rs2 s) s = some t) :
    CompletesFrom (.scW rd rs1 rs2 aq rl) s (clearResv t) rd 0#32 (s.pc + 4#32) := by
  have hexec : execScW rd rs1 rs2 aq rl s = retireWith rd 0#32 (s.pc + 4#32) (clearResv t) := by
    simp only [execScW, hm, if_true, h]
  exact completesFrom_of_retireWith hexec

theorem haltsWith_scW (hm : scMatches (readReg rs1 s) s = true)
    (h : memWrite (readReg rs1 s) .word (readReg rs2 s) s = none) :
    HaltsWith (.scW rd rs1 rs2 aq rl) s .outOfRangeStore (readReg rs1 s) := by
  have hexec : execScW rd rs1 rs2 aq rl s = halt .outOfRangeStore (readReg rs1 s) s := by
    simp only [execScW, hm, if_true, h]
  exact hexec

theorem completesFrom_scW_of_not_matches (hm : ¬ scMatches (readReg rs1 s) s = true) :
    CompletesFrom (.scW rd rs1 rs2 aq rl) s (clearResv s) rd 1#32 (s.pc + 4#32) :=
  completesFrom_of_retireWith (if_neg hm)

end

/-! ### The read-modify-write (R337 to R345) -/

/-- An AMO whose read answers `old` and `u`, and whose write then answers `t`, completes with both effects. -/
theorem completesFrom_of_amoOp {i : Instr} {s u t : State} {op : Word → Word → Word} {rd rs1 rs2 : RegIdx} {old : Word}
    (h : exec i s = amoOp op rd rs1 rs2 s) (hr : memRead (readReg rs1 s) .word s = some (old, u))
    (hw : memWrite (readReg rs1 s) .word (op old (readReg rs2 s)) u = some t) :
    CompletesFrom i s t rd old (s.pc + 4#32) :=
  completesFrom_of_retireWith (h.trans (by simp only [amoOp, hr, hw]))

/-- A device's read, then its write with the snoop, change no byte of RAM. -/
theorem memByte_snoop_devWrite_devRead (d : Device) (o : Nat) (n : Width) (v : Word) (s : State) (a m b : Nat) :
    memByte (resvSnoop a m (devWrite d o n v (devRead d o n s).2)) b = memByte s b :=
  (memByte_snoop_devWrite d o v a m b).trans (memByte_congr (devRead_mem d o n s) b)

/-- `f` is the model's operator, `op` the same in the statement's terms. -/
theorem modifiesAt_of_amoOp {mk : RegIdx → RegIdx → RegIdx → Bool → Bool → Instr} {f op : Word → Word → Word}
    (h : ∀ rd rs1 rs2 aq rl s, exec (mk rd rs1 rs2 aq rl) s = amoOp f rd rs1 rs2 s)
    (hop : ∀ old b, f old b = op old b) :
    ModifiesAt mk op := by
  obtain rfl : f = op := funext fun old => funext (hop old)
  intro rd rs1 rs2 aq rl s
  have hexec := h rd rs1 rs2 aq rl s
  refine ⟨fun hram => ?ram, fun d o hdev => ?dev, fun hout => ?out⟩
  case ram =>
    exact ⟨_, _, _, rfl, rfl, storesBytes_writeRam s _ _,
      completesFrom_of_amoOp hexec (memRead_ram hram) (memWrite_ram _ hram)⟩
  case dev =>
    have hdev' : classify (devRead d o .word s).2.cfg (readReg rs1 s) 4 = .dev d o := by rwa [devRead_cfg]
    exact ⟨_, rfl, memByte_snoop_devWrite_devRead d o .word _ s _ _,
      completesFrom_of_amoOp hexec (memRead_dev hdev) (memWrite_dev _ hdev')⟩
  case out => exact hexec.trans (amoOp_none (memRead_out hout))

/-! ### The minima and maxima in the statement's terms (R342 to R345) -/

section
variable (old b : Word)

theorem amoMin_eq : amoMin old b = if old.toInt < b.toInt then old else b := by
  simp only [amoMin, ltS_iff]

theorem amoMax_eq : amoMax old b = if b.toInt < old.toInt then old else b := by
  simp only [amoMax, ltS_iff]

theorem amoMinu_eq : amoMinu old b = if old.toNat < b.toNat then old else b := by
  simp only [amoMinu, ltU_iff]

theorem amoMaxu_eq : amoMaxu old b = if b.toNat < old.toNat then old else b := by
  simp only [amoMaxu, ltU_iff]

end

/-- Settles O31: the decoder's one test of the source register field, and LR.W by what its address reaches. -/
theorem loadReserved : Obligations.LoadReserved := by
  refine ⟨fun aq rl rs1 rd => ?legal, fun aq rl rs2 rs1 rd hrs2 => ?illegal, fun rd rs1 aq rl s => ⟨fun hram => ?ram,
    fun d o hdev => ?dev, fun hout => ?out⟩⟩
  case legal => exact (decode32_encA_lr aq rl 0#5 rs1 rd).trans (if_pos rfl)
  case illegal => exact (decode32_encA_lr aq rl rs2 rs1 rd).trans (if_neg hrs2)
  case ram => exact completesFrom_lrW (memRead_ram hram)
  case dev => exact completesFrom_lrW (memRead_dev hdev)
  case out => exact haltsWith_lrW (memRead_out hout)

/-- Settles O32: SC.W by whether the reservation matches, and then by what the address reaches. -/
theorem storeConditional : Obligations.StoreConditional := by
  refine ⟨layoutA_of_decodeAmo fun w h3 h5 => by simp only [decodeAmo, h3, h5], fun rd rs1 rs2 aq rl s =>
    ⟨fun hmatch => ?succeeds, fun hother => ?fails⟩⟩
  case succeeds =>
    have hm := scMatches_iff.mpr hmatch
    refine ⟨fun hram => ?ram, fun d o hdev => ?dev, fun hout => ?out⟩
    case ram => exact ⟨_, _, storesBytes_writeRam s _ _, rfl, completesFrom_scW hm (memWrite_ram _ hram)⟩
    case dev =>
      have hcompletes := completesFrom_scW (rd := rd) (aq := aq) (rl := rl) hm (memWrite_dev (readReg rs2 s) hdev)
      rw [clearResv_resvSnoop] at hcompletes
      exact ⟨memByte_congr (devWrite_mem d o .word _ s), hcompletes⟩
    case out => exact haltsWith_scW hm (memWrite_out _ hout)
  case fails =>
    have hm : ¬ scMatches (readReg rs1 s) s = true := by
      rwa [scMatches_iff, not_and_or, Bool.not_eq_true]
    exact completesFrom_scW_of_not_matches hm

/-- Settles O33: each layout from `decodeAmo`; each meaning is `amoOp`, with the rule's operator. -/
theorem atomicOperations : Obligations.AtomicOperations := by
  refine ⟨⟨?swap, modifiesAt_of_amoOp (fun _ _ _ _ _ _ => rfl) fun _ _ => rfl⟩,
    ⟨?add, modifiesAt_of_amoOp (fun _ _ _ _ _ _ => rfl) fun _ _ => rfl⟩,
    ⟨?xor, modifiesAt_of_amoOp (fun _ _ _ _ _ _ => rfl) fun _ _ => rfl⟩,
    ⟨?and, modifiesAt_of_amoOp (fun _ _ _ _ _ _ => rfl) fun _ _ => rfl⟩,
    ⟨?or, modifiesAt_of_amoOp (fun _ _ _ _ _ _ => rfl) fun _ _ => rfl⟩,
    ⟨?min, modifiesAt_of_amoOp (fun _ _ _ _ _ _ => rfl) amoMin_eq⟩,
    ⟨?max, modifiesAt_of_amoOp (fun _ _ _ _ _ _ => rfl) amoMax_eq⟩,
    ⟨?minu, modifiesAt_of_amoOp (fun _ _ _ _ _ _ => rfl) amoMinu_eq⟩,
    ⟨?maxu, modifiesAt_of_amoOp (fun _ _ _ _ _ _ => rfl) amoMaxu_eq⟩⟩
  all_goals exact layoutA_of_decodeAmo fun w h3 h5 => by simp only [decodeAmo, h3, h5]

end Sys2Proof.Machine
end

section
/-! SUPPORT. Fences and environment breaks (46_system_csr.md R370, R371, R373, R434): the layouts and the exact encodings
from the decoder's fields, the one effect of a fence, and the proofs of the statements. -/

namespace Sys2Proof.Machine

/-! ### Fences (R132, R370, R371) -/

theorem decode32_of_miscMem {w : Word} (h : opcodeF w = 0x0F#7) : decode32 w = decodeMiscMem w := by
  simp only [decode32, h]

theorem decode32_encI_fence (fm pred succ : BitVec 4) (rs1 rd : RegIdx) :
    decode32 (encI (fm ++ pred ++ succ) rs1 0#3 rd 0x0F#7) = some (.fence fm pred succ rs1 rd) := by
  obtain ⟨hfm, hpred, hsucc⟩ := fence_fields fm pred succ rs1 0#3 rd 0x0F#7
  rw [decode32_of_miscMem (opcodeF_encI ..)]
  simp only [decodeMiscMem, funct3F_encI, hfm, hpred, hsucc, rs1F_encI, rdF_encI]

theorem layoutI_fenceI : LayoutI 1#3 0x0F#7 fun rd rs1 imm => .fenceI imm rs1 rd :=
  layoutI_of_decode32 fun w hop h3 => by simp only [decode32_of_miscMem hop, decodeMiscMem, h3]

theorem continues_of_nopOp {i : Instr} {ilen : Word} {s : State} (h : exec i s = nopOp ilen s) :
    Continues i s (s.pc + ilen) :=
  ⟨_, h, writesReg_retire_only s _⟩

/-- Settles O36: the layouts from `decodeMiscMem`, and each meaning is `nopOp`. -/
theorem fences : Obligations.Fences :=
  ⟨⟨decode32_encI_fence, fun _ _ _ _ _ _ => continues_of_nopOp rfl⟩,
   ⟨layoutI_fenceI, fun _ _ _ _ => continues_of_nopOp rfl⟩⟩

/-! ### Environment breaks (R132, R138, R373, R434) -/

/-- The row of EBREAK fixes the whole word, so strict decoding leaves one word. -/
theorem decode32_eq_ebreak_iff (w : Word) : decode32 w = some .ebreak ↔ w = 0x00100073#32 := by
  constructor
  · intro hd
    have hstrict := decode32_strict w
    rw [hd] at hstrict
    obtain ⟨-, hmatch⟩ := hstrict
    have hmask : w &&& 0xFFFFFFFF#32 = w := BitVec.and_allOnes
    exact hmask.symm.trans (eq_of_beq hmatch)
  · rintro rfl
    rfl

section
variable {h : Half}

theorem decodeQ0_ne_cEbreak : decodeQ0 h ≠ some .cEbreak := by
  unfold decodeQ0
  split
  case h_1 => split <;> nofun
  all_goals nofun

theorem decodeQ1Alu_ne_cEbreak : decodeQ1Alu h ≠ some .cEbreak := by
  unfold decodeQ1Alu
  split
  case h_3 => nofun
  case h_4 =>
    split
    · split <;> nofun
    · nofun
  all_goals split <;> nofun

theorem decodeQ1_ne_cEbreak : decodeQ1 h ≠ some .cEbreak := by
  unfold decodeQ1
  split
  case h_1 => split <;> nofun
  case h_4 => split_ifs <;> nofun
  case h_5 => exact decodeQ1Alu_ne_cEbreak
  all_goals nofun

/-- Among the uses of funct3 100 in quadrant 10 (R138), C.EBREAK is the one with bit 12 set and both register fields 0. -/
theorem fields_of_decodeQ2Jump_eq_cEbreak (hd : decodeQ2Jump h = some .cEbreak) :
    cBit12F h = 1#1 ∧ cRdF h = 0#5 ∧ cRs2F h = 0#5 := by
  unfold decodeQ2Jump at hd
  split_ifs at hd with hbit hrs2 hrd hrs2 hrd <;> cases hd
  exact ⟨(BitVec.eq_zero_or_eq_one _).resolve_left hbit, hrd, hrs2⟩

theorem fields_of_decodeQ2_eq_cEbreak (hd : decodeQ2 h = some .cEbreak) :
    cFunct3F h = 4#3 ∧ cBit12F h = 1#1 ∧ cRdF h = 0#5 ∧ cRs2F h = 0#5 := by
  unfold decodeQ2 at hd
  split at hd
  case h_3 h3 => exact ⟨h3, fields_of_decodeQ2Jump_eq_cEbreak hd⟩
  case h_1 => split at hd <;> cases hd
  case h_2 => split at hd <;> cases hd
  all_goals cases hd

/-- C.EBREAK fixes every field of the CI layout, so there is one halfword. -/
theorem decode16_eq_cEbreak_iff : decode16 h = some .cEbreak ↔ h = 0x9002#16 := by
  constructor
  · intro hd
    unfold decode16 at hd
    split at hd
    case h_1 => exact absurd hd decodeQ0_ne_cEbreak
    case h_2 => exact absurd hd decodeQ1_ne_cEbreak
    case h_3 hq =>
      obtain ⟨h3, hbit, hrd, hrs2⟩ := fields_of_decodeQ2_eq_cEbreak hd
      rw [← encCI_fields h, h3, hbit, hrd, hrs2, hq]
      rfl
    case h_4 => cases hd
  · rintro rfl
    rfl

end

/-- Settles O37: one encoding of each length, and each meaning is `halt` with the breakpoint reason. -/
theorem breakpoints : Obligations.Breakpoints :=
  ⟨decode32_eq_ebreak_iff, fun _ => decode16_eq_cEbreak_iff, rfl, fun _ => ⟨rfl, rfl⟩⟩

end Sys2Proof.Machine
end

section
/-! SUPPORT. Compressed instructions (47_compressed.md): what each halfword decodes to, from the decoder's fields, the
effects from the shared operations, and the proofs of the statements. -/

namespace Sys2Proof.Machine

/-! ### The pieces of a layout in the places of the CI and CL layouts (R137, R138) -/

section
variable (f3 : BitVec 3) (b : BitVec 1) (q : BitVec 2)

/-- `funct2 ++ rd'` in the place of `h[11:7]`. -/
theorem encCI_of_cb_pieces (f2 : BitVec 2) (rd : CReg) (lo : BitVec 5) :
    f3 ++ b ++ f2 ++ rd ++ lo ++ q = encCI f3 b (f2 ++ rd) lo q :=
  congrArg (fun v : BitVec 9 => v ++ lo ++ q) BitVec.append_assoc

theorem encCI_of_lwsp_pieces (rd : RegIdx) (u2 : BitVec 3) (u6 : BitVec 2) :
    f3 ++ b ++ rd ++ u2 ++ u6 ++ q = encCI f3 b rd (u2 ++ u6) q :=
  congrArg (fun v : BitVec 14 => v ++ q) BitVec.append_assoc

theorem encCI_of_addi16sp_pieces (rd : RegIdx) (b4 b6 : BitVec 1) (b7 : BitVec 2) (b5 : BitVec 1) :
    f3 ++ b ++ rd ++ b4 ++ b6 ++ b7 ++ b5 ++ q = encCI f3 b rd (b4 ++ b6 ++ b7 ++ b5) q := by
  calc f3 ++ b ++ rd ++ b4 ++ b6 ++ b7 ++ b5 ++ q
    _ = f3 ++ b ++ rd ++ (b4 ++ b6) ++ b7 ++ b5 ++ q :=
      congrArg (fun v : BitVec 11 => v ++ b7 ++ b5 ++ q) BitVec.append_assoc
    _ = f3 ++ b ++ rd ++ (b4 ++ b6 ++ b7) ++ b5 ++ q :=
      congrArg (fun v : BitVec 13 => v ++ b5 ++ q) BitVec.append_assoc
    _ = encCI f3 b rd (b4 ++ b6 ++ b7 ++ b5) q := congrArg (fun v : BitVec 14 => v ++ q) BitVec.append_assoc

theorem encCL_of_memory_pieces (u3 : BitVec 3) (r1 : CReg) (u2 u6 : BitVec 1) (r2 : CReg) :
    f3 ++ u3 ++ r1 ++ u2 ++ u6 ++ r2 ++ q = encCL f3 u3 r1 (u2 ++ u6) r2 q :=
  congrArg (fun v : BitVec 11 => v ++ r2 ++ q) BitVec.append_assoc

theorem encCL_of_branch_pieces (b8 : BitVec 1) (b3 : BitVec 2) (rs1 : CReg) (b6 b1 : BitVec 2) (b5 : BitVec 1) :
    f3 ++ b8 ++ b3 ++ rs1 ++ b6 ++ b1 ++ b5 ++ q = encCL f3 (b8 ++ b3) rs1 b6 (b1 ++ b5) q := by
  calc f3 ++ b8 ++ b3 ++ rs1 ++ b6 ++ b1 ++ b5 ++ q
    _ = f3 ++ (b8 ++ b3) ++ rs1 ++ b6 ++ b1 ++ b5 ++ q :=
      congrArg (fun v : BitVec 6 => v ++ rs1 ++ b6 ++ b1 ++ b5 ++ q) BitVec.append_assoc
    _ = encCL f3 (b8 ++ b3) rs1 b6 (b1 ++ b5) q := congrArg (fun v : BitVec 14 => v ++ q) BitVec.append_assoc

end

/-! ### The halfwords of each layout (R137 to R139)

One equation for each use of a layout, which gives the instruction and names the reserved operands beside it. -/

section
variable {h : Half}

theorem decode16_of_quad0 (hq : quadF h = 0#2) : decode16 h = decodeQ0 h := by
  simp only [decode16, hq]

theorem decode16_of_quad1 (hq : quadF h = 1#2) : decode16 h = decodeQ1 h := by
  simp only [decode16, hq]

theorem decode16_of_quad2 (hq : quadF h = 2#2) : decode16 h = decodeQ2 h := by
  simp only [decode16, hq]

theorem decodeQ1_of_alu (h3 : cFunct3F h = 4#3) : decodeQ1 h = decodeQ1Alu h := by
  simp only [decodeQ1, h3]

theorem decodeQ2_of_jump (h3 : cFunct3F h = 4#3) : decodeQ2 h = decodeQ2Jump h := by
  simp only [decodeQ2, h3]

end

/-- The CIW layout, C.ADDI4SPN. -/
theorem decode16_ciw (u4 : BitVec 2) (u6 : BitVec 4) (u2 u3 : BitVec 1) (rd : CReg) :
    decode16 (0#3 ++ u4 ++ u6 ++ u2 ++ u3 ++ rd ++ 0#2) =
      if u6 ++ u4 ++ u3 ++ u2 ++ 0#2 = 0#10 then none else some (.cAddi4spn rd (u6 ++ u4 ++ u3 ++ u2 ++ 0#2)) := by
  obtain ⟨hq, h3, hrd, himm⟩ := ciw_fields u4 u6 u2 u3 rd
  rw [decode16_of_quad0 hq]
  simp only [decodeQ0, h3, hrd, himm]

/-- The CSS layout, C.SWSP. -/
theorem decode16_css (u2 : BitVec 4) (u6 : BitVec 2) (rs2 : RegIdx) :
    decode16 (6#3 ++ u2 ++ u6 ++ rs2 ++ 2#2) = some (.cSwsp rs2 (u6 ++ u2 ++ 0#2)) := by
  obtain ⟨hq, h3, hrs2, himm⟩ := css_fields 6#3 u2 u6 rs2 2#2
  rw [decode16_of_quad2 hq]
  simp only [decodeQ2, h3, hrs2, himm]

section
variable (b : BitVec 1) (r lo : BitVec 5)

theorem decode16_ci_addi : decode16 (encCI 0#3 b r lo 1#2) =
    if r = 0#5 then some (.cNop (b ++ lo)) else some (.cAddi r (b ++ lo)) := by
  rw [decode16_of_quad1 (quadF_encCI ..)]
  simp only [decodeQ1, cFunct3F_encCI, cRdF_encCI, ciImm_encCI]

theorem decode16_ci_li : decode16 (encCI 2#3 b r lo 1#2) = some (.cLi r (b ++ lo)) := by
  rw [decode16_of_quad1 (quadF_encCI ..)]
  simp only [decodeQ1, cFunct3F_encCI, cRdF_encCI, ciImm_encCI]

theorem decode16_ci_lui (hr : r ≠ 2#5) : decode16 (encCI 3#3 b r lo 1#2) =
    if b ++ lo = 0#6 then none else some (.cLui r (b ++ lo)) := by
  rw [decode16_of_quad1 (quadF_encCI ..)]
  simp only [decodeQ1, cFunct3F_encCI, cRdF_encCI, ciImm_encCI, if_neg hr]

theorem decode16_ci_slli : decode16 (encCI 0#3 b r lo 2#2) = if b = 0#1 then some (.cSlli r lo) else none := by
  rw [decode16_of_quad2 (quadF_encCI ..)]
  simp only [decodeQ2, cFunct3F_encCI, cBit12F_encCI, cRdF_encCI, cRs2F_encCI]

theorem decode16_ci_lwsp : decode16 (encCI 2#3 b r lo 2#2) =
    if r = 0#5 then none else some (.cLwsp r (ciLwsp (encCI 2#3 b r lo 2#2))) := by
  rw [decode16_of_quad2 (quadF_encCI ..)]
  simp only [decodeQ2, cFunct3F_encCI, cRdF_encCI]

theorem decode16_cr : decode16 (encCI 4#3 b r lo 2#2) = decodeQ2Jump (encCI 4#3 b r lo 2#2) :=
  (decode16_of_quad2 (quadF_encCI ..)).trans (decodeQ2_of_jump (cFunct3F_encCI ..))

/-- The CR layout with bit 12 clear: C.JR and C.MV. -/
theorem decode16_cr_move : decode16 (encCI 4#3 0#1 r lo 2#2) =
    if lo = 0#5 then (if r = 0#5 then none else some (.cJr r)) else some (.cMv r lo) := by
  simp only [decode16_cr, decodeQ2Jump, cBit12F_encCI, cRdF_encCI, cRs2F_encCI, if_true]

/-- The CR layout with bit 12 set: C.EBREAK, C.JALR and C.ADD. -/
theorem decode16_cr_add : decode16 (encCI 4#3 1#1 r lo 2#2) =
    if lo = 0#5 then (if r = 0#5 then some .cEbreak else some (.cJalr r)) else some (.cAdd r lo) := by
  have hbit : (1#1 : BitVec 1) ≠ 0#1 := by decide
  simp only [decode16_cr, decodeQ2Jump, cBit12F_encCI, cRdF_encCI, cRs2F_encCI, if_neg hbit]

end

/-- C.ADDI16SP, which has the CI layout of C.LUI with `rd = 2`. -/
theorem decode16_ci_addi16sp (b9 b4 b6 : BitVec 1) (b7 : BitVec 2) (b5 : BitVec 1) :
    decode16 (encCI 3#3 b9 2#5 (b4 ++ b6 ++ b7 ++ b5) 1#2) =
      if b9 ++ b7 ++ b6 ++ b5 ++ b4 ++ 0#4 = 0#10 then none
      else some (.cAddi16sp (b9 ++ b7 ++ b6 ++ b5 ++ b4 ++ 0#4)) := by
  rw [decode16_of_quad1 (quadF_encCI ..)]
  simp only [decodeQ1, cFunct3F_encCI, cRdF_encCI, ciAddi16sp_encCI, if_true]

section
variable (b : BitVec 1) (rd : CReg) (lo : BitVec 5)

/-- The CB layout of the shifts and C.ANDI is a CI layout whose register field is `funct2 ++ rd'`. -/
theorem decode16_cb (f2 : BitVec 2) :
    decode16 (encCI 4#3 b (f2 ++ rd) lo 1#2) = decodeQ1Alu (encCI 4#3 b (f2 ++ rd) lo 1#2) :=
  (decode16_of_quad1 (quadF_encCI ..)).trans (decodeQ1_of_alu (cFunct3F_encCI ..))

theorem decode16_cb_srli : decode16 (encCI 4#3 b (0#2 ++ rd) lo 1#2) =
    if b = 0#1 then some (.cSrli rd lo) else none := by
  obtain ⟨h2, hrd⟩ := cFunct2F_encCI 4#3 b 0#2 rd lo 1#2
  simp only [decode16_cb, decodeQ1Alu, h2, hrd, cBit12F_encCI, cRs2F_encCI]

theorem decode16_cb_srai : decode16 (encCI 4#3 b (1#2 ++ rd) lo 1#2) =
    if b = 0#1 then some (.cSrai rd lo) else none := by
  obtain ⟨h2, hrd⟩ := cFunct2F_encCI 4#3 b 1#2 rd lo 1#2
  simp only [decode16_cb, decodeQ1Alu, h2, hrd, cBit12F_encCI, cRs2F_encCI]

theorem decode16_cb_andi : decode16 (encCI 4#3 b (2#2 ++ rd) lo 1#2) = some (.cAndi rd (b ++ lo)) := by
  obtain ⟨h2, hrd⟩ := cFunct2F_encCI 4#3 b 2#2 rd lo 1#2
  simp only [decode16_cb, decodeQ1Alu, h2, hrd, ciImm_encCI]

/-- With bit 12 set, `funct2` 11 is no CA form. -/
theorem decode16_cb_reserved : decode16 (encCI 4#3 1#1 (3#2 ++ rd) lo 1#2) = none := by
  obtain ⟨h2, -⟩ := cFunct2F_encCI 4#3 1#1 3#2 rd lo 1#2
  simp [decode16_cb, decodeQ1Alu, h2]

end

section
variable (u3 : BitVec 3) (r1 r2 : CReg) (u2 u6 : BitVec 1)

theorem decode16_cl : decode16 (encCL 2#3 u3 r1 (u2 ++ u6) r2 0#2) = some (.cLw r2 r1 (u6 ++ u3 ++ u2 ++ 0#2)) := by
  rw [decode16_of_quad0 (quadF_encCL ..)]
  simp only [decodeQ0, cFunct3F_encCL, cRs1pF_encCL, cRs2pF_encCL, clUimm_encCL]

theorem decode16_cs : decode16 (encCL 6#3 u3 r1 (u2 ++ u6) r2 0#2) = some (.cSw r1 r2 (u6 ++ u3 ++ u2 ++ 0#2)) := by
  rw [decode16_of_quad0 (quadF_encCL ..)]
  simp only [decodeQ0, cFunct3F_encCL, cRs1pF_encCL, cRs2pF_encCL, clUimm_encCL]

end

/-- The CA layout: the second `funct2` chooses the instruction. -/
theorem decode16_ca_of_decodeQ1Alu {f2 : BitVec 2} {mk : CReg → CReg → Instr}
    (h : ∀ w, cFunct2F w = 3#2 → cBit12F w = 0#1 → cFunct2aF w = f2 →
      decodeQ1Alu w = some (mk (cRs1pF w) (cRs2pF w)))
    (rd rs2 : CReg) : decode16 (encCL 4#3 3#3 rd f2 rs2 1#2) = some (mk rd rs2) := by
  obtain ⟨h2, hbit⟩ := ca_fields rd f2 rs2 1#2
  rw [decode16_of_quad1 (quadF_encCL ..), decodeQ1_of_alu (cFunct3F_encCL ..), h _ h2 hbit (cFunct2aF_encCL ..),
    cRs1pF_encCL, cRs2pF_encCL]

section
variable {f3 : BitVec 3}

theorem layoutCJ_of_decodeQ1 {mk : BitVec 12 → Instr}
    (h : ∀ w, cFunct3F w = f3 → decodeQ1 w = some (mk (cjOff w))) : LayoutCJ f3 mk := by
  intro b11 b4 b8 b10 b6 b7 b1 b5
  obtain ⟨hq, h3, hoff⟩ := cj_fields f3 b11 b4 b8 b10 b6 b7 b1 b5 1#2
  rw [← hoff, ← h _ h3]
  exact decode16_of_quad1 hq

theorem layoutCB_of_decodeQ1 {mk : CReg → BitVec 9 → Instr}
    (h : ∀ w, cFunct3F w = f3 → decodeQ1 w = some (mk (cRs1pF w) (cbOff w))) : LayoutCB f3 mk := by
  intro b8 b3 rs1 b6 b1 b5
  rw [encCL_of_branch_pieces]
  have hdecode := h (encCL f3 (b8 ++ b3) rs1 b6 (b1 ++ b5) 1#2) (cFunct3F_encCL ..)
  rw [cRs1pF_encCL, cbOff_encCL] at hdecode
  exact (decode16_of_quad1 (quadF_encCL ..)).trans hdecode

end

/-! ### The value of C.LUI, and jumps that link x0 (R419, R427, R432) -/

/-- The low 20 bits of an extension to 32 bits are the extension to 20. -/
theorem extractLsb'_signExtend (v : BitVec 6) : (v.signExtend 32).extractLsb' 0 20 = v.signExtend 20 := by
  apply BitVec.eq_of_getLsbD_eq
  intro i hi
  have hi' : i < 32 := by omega
  simp only [BitVec.getLsbD_extractLsb', BitVec.getLsbD_signExtend, hi, hi', decide_true, Bool.true_and, Nat.zero_add]

theorem immCLui_eq (imm : BitVec 6) : immCLui imm = imm.signExtend 20 ++ 0#12 := by
  rw [immCLui, sext, BitVec.shiftLeft_eq_concat_of_lt (by decide), extractLsb'_signExtend]
  rfl

/-- An instruction that completes with a write of x0 writes no register, whatever the value. -/
theorem continues_of_completes {i : Instr} {s : State} {v n : Word} (h : Completes i s 0#5 v n) : Continues i s n := by
  obtain ⟨t, hexec, hwrites⟩ := h
  exact ⟨t, hexec, { hwrites with value := hwrites.value }⟩

/-- Settles O43: each layout from its equation, where the reserved operands are the ones ruled out; each meaning is `immOp`,
`setOp`, `nopOp` or `regOp`. A C.LUI of zero is reserved at `rd = 2` as C.ADDI16SP. -/
theorem compressedAdds : Obligations.CompressedAdds := by
  refine ⟨⟨fun u4 u6 u2 u3 rd himm => ?spn, decode16_ciw 0#2 0#4 0#1 0#1,
      fun _ _ _ => ⟨rfl, completes_of_immOp rfl rfl⟩⟩,
    ⟨fun b lo => decode16_ci_addi b 0#5 lo, fun _ _ => ⟨rfl, continues_of_nopOp rfl⟩⟩,
    ⟨fun b rd lo hrd => (decode16_ci_addi b rd lo).trans (if_neg hrd),
      fun _ _ _ => ⟨rfl, completes_of_immOp rfl rfl⟩⟩,
    ⟨decode16_ci_li, fun _ _ _ => ⟨rfl, completes_of_setOp rfl⟩⟩,
    ⟨fun b9 b4 b6 b7 b5 himm => ?addi16sp, decode16_ci_addi16sp 0#1 0#1 0#1 0#2 0#1,
      fun _ _ => ⟨rfl, completes_of_immOp rfl rfl⟩⟩,
    ⟨fun b rd lo hrd himm => (decode16_ci_lui b rd lo hrd).trans (if_neg himm), fun rd => ?luiReserved,
      fun rd imm s => ⟨rfl, ?luiValue⟩⟩,
    ⟨fun rd rs2 hrs2 => (decode16_cr_move rd rs2).trans (if_neg hrs2),
      fun _ _ _ => ⟨rfl, completes_of_setOp rfl⟩⟩,
    ⟨fun rd rs2 hrs2 => (decode16_cr_add rd rs2).trans (if_neg hrs2),
      fun _ _ _ => ⟨rfl, completes_of_regOp rfl rfl⟩⟩⟩
  case spn => exact (decode16_ciw u4 u6 u2 u3 rd).trans (if_neg himm)
  case addi16sp =>
    rw [encCI_of_addi16sp_pieces]
    exact (decode16_ci_addi16sp b9 b4 b6 b7 b5).trans (if_neg himm)
  case luiReserved =>
    by_cases hrd : rd = 2#5
    · subst hrd
      exact decode16_ci_addi16sp 0#1 0#1 0#1 0#2 0#1
    · exact (decode16_ci_lui 0#1 rd 0#5 hrd).trans (if_pos rfl)
  case luiValue => exact immCLui_eq imm ▸ completes_of_setOp rfl

/-- Settles O44: the CB forms have the CI layout with `funct2 ++ rd'` in it, the CA forms are those of `decodeQ1Alu`; each
meaning is `shiftOp`, `immOp` or `regOp`. -/
theorem compressedLogic : Obligations.CompressedLogic := by
  refine ⟨⟨fun rd sh => ?srli, fun rd lo => ?srliReserved, fun _ _ _ => ⟨rfl, completes_of_shiftOp rfl rfl⟩⟩,
    ⟨fun rd sh => ?srai, fun rd lo => ?sraiReserved, fun _ _ _ => ⟨rfl, completes_of_shiftOp rfl rfl⟩⟩,
    ⟨fun b rd lo => ?andi, fun _ _ _ => ⟨rfl, completes_of_immOp rfl rfl⟩⟩,
    ⟨?sub, fun _ _ _ => ⟨rfl, completes_of_regOp rfl rfl⟩⟩,
    ⟨?xor, fun _ _ _ => ⟨rfl, completes_of_regOp rfl rfl⟩⟩,
    ⟨?or, fun _ _ _ => ⟨rfl, completes_of_regOp rfl rfl⟩⟩,
    ⟨?and, fun rd lo => ?caReserved, fun _ _ _ => ⟨rfl, completes_of_regOp rfl rfl⟩⟩,
    ⟨decode16_ci_slli 0#1, decode16_ci_slli 1#1, fun _ _ _ => ⟨rfl, completes_of_shiftOp rfl rfl⟩⟩⟩
  case srli => exact encCI_of_cb_pieces .. ▸ decode16_cb_srli 0#1 rd sh
  case srliReserved => exact encCI_of_cb_pieces .. ▸ decode16_cb_srli 1#1 rd lo
  case srai => exact encCI_of_cb_pieces .. ▸ decode16_cb_srai 0#1 rd sh
  case sraiReserved => exact encCI_of_cb_pieces .. ▸ decode16_cb_srai 1#1 rd lo
  case andi => exact encCI_of_cb_pieces .. ▸ decode16_cb_andi b rd lo
  case caReserved => exact encCI_of_cb_pieces .. ▸ decode16_cb_reserved rd lo
  all_goals exact decode16_ca_of_decodeQ1Alu fun w h2 hbit h2a => by simp [decodeQ1Alu, h2, hbit, h2a]

/-- Settles O45: the layouts from the decoder; the jumps are `jalOp` and `jalrOp` with displacement 0, those without a link
writing x0; the branches are `branchOp`. -/
theorem compressedControl : Obligations.CompressedControl := by
  refine ⟨⟨?jal, fun _ _ => ⟨rfl, completes_of_jalOp rfl⟩⟩,
    ⟨?j, fun _ _ => ⟨rfl, continues_of_completes (completes_of_jalOp rfl)⟩⟩,
    ⟨?beqz, fun _ _ _ => ⟨rfl, continues_of_branchOp rfl (condEq_iff _ _)⟩⟩,
    ⟨?bnez, fun _ _ _ => ⟨rfl, continues_of_branchOp_not rfl (condNe_iff _ _)⟩⟩,
    ⟨fun rs1 hrs1 => (decode16_cr_move rs1 0#5).trans (if_neg hrs1), decode16_cr_move 0#5 0#5,
      fun rs1 s => ⟨rfl, ?jrTarget⟩⟩,
    ⟨fun rs1 hrs1 => (decode16_cr_add rs1 0#5).trans (if_neg hrs1), fun rs1 s => ⟨rfl, ?jalrTarget⟩⟩⟩
  case jal | j => exact layoutCJ_of_decodeQ1 fun w h3 => by simp only [decodeQ1, h3]
  case beqz => exact layoutCB_of_decodeQ1 fun w h3 => by simp only [decodeQ1, h3]
  case bnez => exact layoutCB_of_decodeQ1 fun w h3 => by simp [decodeQ1, h3]
  case jrTarget =>
    rw [← BitVec.add_zero (readReg rs1 s)]
    exact continues_of_completes (completes_of_jalrOp rfl)
  case jalrTarget =>
    rw [← BitVec.add_zero (readReg rs1 s)]
    exact completes_of_jalrOp rfl

/-- Settles O46: the layouts from the decoder; the loads are `loadOp` and the stores `storeOp`, of a word. -/
theorem compressedMemory : Obligations.CompressedMemory := by
  refine ⟨⟨fun u3 rs1 u2 u6 rd => ?lw,
      fun _ _ _ _ => ⟨rfl, loadsAt_of_loadOp rfl (fun _ => rfl) fun _ => rfl⟩⟩,
    ⟨fun u3 rs1 u2 u6 rs2 => ?sw, fun _ _ _ _ => ⟨rfl, storesAt_of_storeOp rfl⟩⟩,
    ⟨fun u5 rd u2 u6 hrd => ?lwsp, fun u5 lo => decode16_ci_lwsp u5 0#5 lo,
      fun _ _ _ => ⟨rfl, loadsAt_of_loadOp rfl (fun _ => rfl) fun _ => rfl⟩⟩,
    ⟨decode16_css, fun _ _ _ => ⟨rfl, storesAt_of_storeOp rfl⟩⟩⟩
  case lw => exact encCL_of_memory_pieces .. ▸ decode16_cl u3 rs1 rd u2 u6
  case sw => exact encCL_of_memory_pieces .. ▸ decode16_cs u3 rs1 rs2 u2 u6
  case lwsp =>
    rw [encCI_of_lwsp_pieces]
    exact ((decode16_ci_lwsp u5 rd (u2 ++ u6)).trans (if_neg hrd)).trans (by rw [ciLwsp_encCI])

end Sys2Proof.Machine
end

section
/-! SUPPORT. The illegal halfwords (47_compressed.md R440): expansion fails where decoding does, the rows of the rule's table
from each part of the decoder, and the proof of the statement. -/

namespace Sys2Proof.Machine

/-! ### Every decoded halfword has an expansion (R410) -/

section
variable {h : Half}

/-- The answer of a decoder, if it is an instruction, has an expansion. -/
def Expands : Option Instr → Prop
  | some i => i.expand ≠ none
  | none => True

@[simp] theorem expands_some {i : Instr} : Expands (some i) ↔ i.expand ≠ none := Iff.rfl

@[simp] theorem expands_none : Expands none := trivial

theorem decodeQ0_expands : Expands (decodeQ0 h) := by
  unfold decodeQ0
  split
  case h_1 => split <;> simp [Instr.expand]
  all_goals simp [Instr.expand]

theorem decodeQ1Alu_expands : Expands (decodeQ1Alu h) := by
  unfold decodeQ1Alu
  split
  case h_3 => simp [Instr.expand]
  case h_4 =>
    split
    · split <;> simp [Instr.expand]
    · simp
  all_goals split <;> simp [Instr.expand]

theorem decodeQ1_expands : Expands (decodeQ1 h) := by
  unfold decodeQ1
  split
  case h_1 => split <;> simp [Instr.expand]
  case h_4 => split_ifs <;> simp [Instr.expand]
  case h_5 => exact decodeQ1Alu_expands
  all_goals simp [Instr.expand]

theorem decodeQ2Jump_expands : Expands (decodeQ2Jump h) := by
  unfold decodeQ2Jump
  split_ifs <;> simp [Instr.expand]

theorem decodeQ2_expands : Expands (decodeQ2 h) := by
  unfold decodeQ2
  split
  case h_1 => split <;> simp [Instr.expand]
  case h_2 => split <;> simp [Instr.expand]
  case h_3 => exact decodeQ2Jump_expands
  all_goals simp [Instr.expand]

theorem decode16_expands : Expands (decode16 h) := by
  unfold decode16
  split
  case h_1 => exact decodeQ0_expands
  case h_2 => exact decodeQ1_expands
  case h_3 => exact decodeQ2_expands
  case h_4 => exact expands_none

/-- Expansion fails exactly where decoding does. -/
theorem expandHalf_eq_none_iff : expandHalf h = none ↔ decode16 h = none := by
  have hexpands := decode16_expands (h := h)
  unfold expandHalf
  cases hd : decode16 h with
  | none => simp
  | some i =>
    rw [hd, expands_some] at hexpands
    simp [hexpands]

end

/-! ### The reserved bits and immediates (R138, R440) -/

theorem append_toNat_eq_zero_iff {m n : Nat} {x : BitVec m} {y : BitVec n} :
    (x ++ y).toNat = 0 ↔ x.toNat = 0 ∧ y.toNat = 0 := by
  simp [BitVec.toNat_append, Nat.shiftLeft_eq]

theorem bitVec3_cases (f : BitVec 3) :
    f = 0#3 ∨ f = 1#3 ∨ f = 2#3 ∨ f = 3#3 ∨ f = 4#3 ∨ f = 5#3 ∨ f = 6#3 ∨ f = 7#3 := by
  revert f
  decide

/-- The values of `funct2` other than that of C.ANDI, as the rows of R440 give them. -/
theorem ne_andi_iff {f : BitVec 2} : f ≠ 2#2 ↔ f ∈ [0#2, 1#2] ∨ f = 3#2 := by
  revert f
  decide

section
variable {h : Half}

theorem cBit12F_eq_zero_iff : cBit12F h = 0#1 ↔ h.getLsbD 12 = false := by
  rw [cBit12F, ← ofBool_getLsbD]
  cases h.getLsbD 12 <;> decide

theorem ciwNzuimm_eq_zero_iff : ciwNzuimm h = 0#10 ↔ h.extractLsb' 5 8 = 0#8 := by
  have hjoin : h.extractLsb' 11 2 ++ h.extractLsb' 7 4 ++ h.extractLsb' 6 1 ++ h.extractLsb' 5 1 =
      h.extractLsb' 5 8 := by
    rw [slice_join h 7 4 2, slice_join h 6 1 (2 + 4), slice_join h 5 1 (2 + 4 + 1)]
  simp only [← hjoin, ciwNzuimm, BitVec.toNat_eq, append_toNat_eq_zero_iff, BitVec.toNat_ofNat, Nat.zero_mod,
    and_true]
  tauto

theorem ciImm_eq_zero_iff : ciImm h = 0#6 ↔ h.getLsbD 12 = false ∧ cRs2F h = 0#5 := by
  simp only [← cBit12F_eq_zero_iff, ciImm, cBit12F, cRs2F, BitVec.toNat_eq, append_toNat_eq_zero_iff,
    BitVec.toNat_ofNat, Nat.zero_mod]

theorem ciAddi16sp_eq_zero_iff : ciAddi16sp h = 0#10 ↔ h.getLsbD 12 = false ∧ cRs2F h = 0#5 := by
  have hjoin : h.extractLsb' 6 1 ++ h.extractLsb' 5 1 ++ h.extractLsb' 3 2 ++ h.extractLsb' 2 1 = cRs2F h := by
    rw [slice_join h 5 1 1, slice_join h 3 2 (1 + 1), slice_join h 2 1 (1 + 1 + 2), cRs2F]
  simp only [← cBit12F_eq_zero_iff, ← hjoin, cBit12F, ciAddi16sp, BitVec.toNat_eq, append_toNat_eq_zero_iff,
    BitVec.toNat_ofNat, Nat.zero_mod, and_true]
  tauto

/-! ### The illegal halfwords of each quadrant (R440) -/

/-- By the value of `funct3`, as the table is. -/
theorem decodeQ0_eq_none_iff : decodeQ0 h = none ↔
    (cFunct3F h = 0#3 ∧ h.extractLsb' 5 8 = 0#8) ∨ cFunct3F h ∈ [1#3, 3#3, 5#3, 7#3] ∨ cFunct3F h = 4#3 := by
  unfold decodeQ0
  obtain h3 | h3 | h3 | h3 | h3 | h3 | h3 | h3 := bitVec3_cases (cFunct3F h) <;>
    simp [h3, ciwNzuimm_eq_zero_iff]

theorem decodeQ1Alu_eq_none_iff : decodeQ1Alu h = none ↔
    (cFunct2F h ∈ [0#2, 1#2] ∧ h.getLsbD 12 = true) ∨ (cFunct2F h = 3#2 ∧ h.getLsbD 12 = true) := by
  rw [← or_and_right, ← ne_andi_iff]
  unfold decodeQ1Alu
  split
  case h_3 h2 => simp [h2]
  case h_4 =>
    split
    · split <;> simp_all [cBit12F_eq_zero_iff]
    · simp_all [cBit12F_eq_zero_iff]
  all_goals simp [*, cBit12F_eq_zero_iff]

theorem decodeQ1_eq_none_iff : decodeQ1 h = none ↔
    (cFunct3F h = 3#3 ∧ h.getLsbD 12 = false ∧ cRs2F h = 0#5) ∨
    (cFunct3F h = 4#3 ∧ cFunct2F h ∈ [0#2, 1#2] ∧ h.getLsbD 12 = true) ∨
    (cFunct3F h = 4#3 ∧ cFunct2F h = 3#2 ∧ h.getLsbD 12 = true) := by
  unfold decodeQ1
  split
  case h_1 => split <;> simp [*]
  case h_4 => split <;> simp [*, ciImm_eq_zero_iff, ciAddi16sp_eq_zero_iff]
  case h_8 => simp_all
  all_goals simp [*, decodeQ1Alu_eq_none_iff]

theorem decodeQ2Jump_eq_none_iff : decodeQ2Jump h = none ↔
    h.getLsbD 12 = false ∧ cRdF h = 0#5 ∧ cRs2F h = 0#5 := by
  unfold decodeQ2Jump
  rw [← cBit12F_eq_zero_iff]
  split_ifs <;> simp [*]

/-- By the value of `funct3`, as the table is. -/
theorem decodeQ2_eq_none_iff : decodeQ2 h = none ↔
    (cFunct3F h = 0#3 ∧ h.getLsbD 12 = true) ∨
    cFunct3F h ∈ [1#3, 3#3, 5#3, 7#3] ∨
    (cFunct3F h = 2#3 ∧ cRdF h = 0#5) ∨
    (cFunct3F h = 4#3 ∧ h.getLsbD 12 = false ∧ cRdF h = 0#5 ∧ cRs2F h = 0#5) := by
  unfold decodeQ2
  obtain h3 | h3 | h3 | h3 | h3 | h3 | h3 | h3 := bitVec3_cases (cFunct3F h) <;>
    simp [h3, decodeQ2Jump_eq_none_iff, cBit12F_eq_zero_iff]

end

theorem quadF_cases {h : Half} (hlong : quadF h ≠ 3#2) : quadF h = 0#2 ∨ quadF h = 1#2 ∨ quadF h = 2#2 := by
  revert hlong
  generalize quadF h = q
  revert q
  decide

/-- Settles O21: expansion fails exactly where decoding does, whose failures are those of each quadrant; such a halfword is
fetched and found illegal. -/
theorem illegalHalfwords : Obligations.IllegalHalfwords := by
  refine ⟨fun h hshort => ?rows, fun s hrun hquit heven hfits hshort hnone => ?halts⟩
  case rows =>
    rw [expandHalf_eq_none_iff]
    obtain hq | hq | hq := quadF_cases hshort
    · rw [decode16_of_quad0 hq]
      simpa [show h.extractLsb' 0 2 = 0#2 from hq, cFunct3F] using decodeQ0_eq_none_iff
    · rw [decode16_of_quad1 hq]
      simpa [show h.extractLsb' 0 2 = 1#2 from hq, cFunct3F, cRs2F, cFunct2F] using decodeQ1_eq_none_iff
    · rw [decode16_of_quad2 hq]
      simpa [show h.extractLsb' 0 2 = 2#2 from hq, cFunct3F, cRdF, cRs2F] using decodeQ2_eq_none_iff
  case halts => exact step_illegal hrun hquit (fetch_half heven hfits hshort) (expandHalf_eq_none_iff.mp hnone)

end Sys2Proof.Machine
end

section
/-! SUPPORT. The invariant (10_state.md; 70_reset_and_hazards.md R560 to R587): it holds at creation, and every step and
every host action keeps it; the proofs of the statements. -/

namespace Sys2Proof.Machine

/-! ### At creation (R50, R560) -/

/-- A machine created with an allowed configuration meets the invariant: its storage, queues and rings are empty. -/
theorem inv_create {c : Config} (h : ConfigOk c) : Inv (State.create c) where
  cfg := h
  mem := ⟨.nil, nofun⟩
  memEnd := nofun
  fb := ⟨.nil, nofun⟩
  fbEnd := nofun
  csr := ⟨⟨.nil, nofun⟩, nofun⟩
  x0 := rfl
  kbd := Nat.zero_le _
  resv := nofun
  clock := BitVec.le_refl _
  snapshots := Nat.zero_le _
  trace := Nat.zero_le _
  snapshotX0 := nofun

theorem configOk_canonical : ConfigOk Config.canonical := by decide

/-- Settles O2: the reset state is a created one, and its configuration is allowed. -/
theorem invAtReset : Obligations.InvAtReset := inv_create configOk_canonical

/-! ### Every step -/

/-- Settles O3: a step that ends the run changes the status alone; one that retires makes basic changes, retires and
records, each of which keeps the invariant. -/
theorem invKeptByStep : Obligations.InvKeptByStep := by
  intro s t hinv hstep
  obtain ⟨-, hcases⟩ := step_cases hstep
  cases hcases with
  | quit _ => exact hinv.status _
  | halts _ _ => exact hinv.status _
  | exits _ => exact hinv.status _
  | retires _ _ hu rd v n _ => exact ((hu.inv hinv).retire rd v n).record hinv.x0 _ _

/-! ### Every host action (R580) -/

section
variable {s : State}

/-- What a program load resets is put at values that meet the invariant. -/
theorem Inv.restarted (h : Inv s) (entry : Word) : Inv (restarted entry s) :=
  { h with x0 := rfl, snapshots := Nat.zero_le _, trace := Nat.zero_le _, snapshotX0 := nofun }

theorem Inv.writeRam (h : Inv s) {a : Nat} {bs : List Byte} (hfit : a + bs.length ≤ s.cfg.memSize) :
    Inv (writeRam a bs s) :=
  (Effect.writeRam a bs hfit).inv h

theorem Inv.loadImage {t : State} {bytes : List Byte} {addr entry : Word} (h : Inv s)
    (ht : loadImage bytes addr entry s = some t) : Inv t := by
  by_cases hfit : addr.toNat + bytes.length ≤ s.cfg.memSize
  · rw [loadImage_of_le hfit, loaded_eq_writeRam] at ht
    cases ht
    exact (h.restarted entry).writeRam hfit
  · rw [loadImage_of_lt (Nat.not_le.mp hfit)] at ht
    cases ht

theorem Inv.pushKey (h : Inv s) (event : Word) : Inv (pushKey event s) where
  __ := h
  kbd := by
    have hcap := h.kbd
    simp only [Machine.pushKey]
    split
    next hroom => simpa using hroom
    next => exact hcap

theorem Inv.hostWriteByte (h : Inv s) (a : Word) (b : Byte) : Inv (hostWriteByte a b s) := by
  unfold Machine.hostWriteByte
  split
  next hram => exact h.writeRam hram
  next => exact h

/-- A reverse step takes its register file from a snapshot, where x0 is zero. -/
theorem Inv.reverseStep {t : State} (h : Inv s) (ht : reverseStep s = some t) : Inv t := by
  unfold Machine.reverseStep at ht
  split at ht
  next => cases ht
  next p older hring =>
    cases ht
    have hlen := h.snapshots
    have hx0 := h.snapshotX0
    rw [hring] at hlen hx0
    exact { h with
      x0 := hx0 p List.mem_cons_self
      snapshots := (Nat.le_succ _).trans hlen
      trace := (List.tail_sublist _).length_le.trans h.trace
      snapshotX0 := fun q hq => hx0 q (List.mem_cons_of_mem p hq) }

end

/-- Settles O4: the actions that write RAM write inside it, the queue and the rings stay bounded, and the supplied answers
are no part of the invariant. -/
theorem invKeptByHost : Obligations.InvKeptByHost := by
  intro x s t hinv hact
  cases x
  case loadImage => exact hinv.loadImage hact
  case reverseStep => exact hinv.reverseStep hact
  all_goals cases hact
  case pushKey event => exact hinv.pushKey event
  case writeByte a b => exact hinv.hostWriteByte a b
  all_goals exact { hinv with }

end Sys2Proof.Machine
end

section
/-! SUPPORT. Decoder and encoder as inverses (30_encoding.md sections 2 to 5, 47_compressed.md section 1): the immediates
put together again, one direction by instruction, the other by part of the decoder, and the proofs of the statements. -/

namespace Sys2Proof.Machine

/-! ### Halfwords put together again from their fields (R137, R138)

Each immediate is its own slices, in order, and the zero bits below them; so the slices that the encoder takes of it are
the slices of the halfword that the decoder took. -/

theorem append_inj {m n : Nat} {x x' : BitVec m} {y y' : BitVec n} (h : x ++ y = x' ++ y') : x = x' ∧ y = y' := by
  constructor
  · rw [← extract_high x y, h, extract_high]
  · rw [← extract_low x y, h, extract_low]

theorem lowZero_append {n : Nat} (v : BitVec n) (k : Nat) : lowZero (v ++ 0#k) k = true :=
  beq_iff_eq.mpr (extract_low v 0#k)

section
variable (w : Word) (h : Half)

@[simp] theorem lowZero_immB : lowZero (immB w) 1 = true := lowZero_append _ 1
@[simp] theorem lowZero_immJ : lowZero (immJ w) 1 = true := lowZero_append _ 1
@[simp] theorem lowZero_ciwNzuimm : lowZero (ciwNzuimm h) 2 = true := lowZero_append _ 2
@[simp] theorem lowZero_clUimm : lowZero (clUimm h) 2 = true := lowZero_append _ 2
@[simp] theorem lowZero_ciAddi16sp : lowZero (ciAddi16sp h) 4 = true := lowZero_append _ 4
@[simp] theorem lowZero_ciLwsp : lowZero (ciLwsp h) 2 = true := lowZero_append _ 2
@[simp] theorem lowZero_cssSwsp : lowZero (cssSwsp h) 2 = true := lowZero_append _ 2
@[simp] theorem lowZero_cjOff : lowZero (cjOff h) 1 = true := lowZero_append _ 1
@[simp] theorem lowZero_cbOff : lowZero (cbOff h) 1 = true := lowZero_append _ 1

end

section
variable {h : Half}

theorem ciImm_slices : (ciImm h).extractLsb' 5 1 = cBit12F h ∧ (ciImm h).extractLsb' 0 5 = cRs2F h :=
  append_inj (imm6_join (ciImm h))

theorem encCI_ciImm : encCI (cFunct3F h) ((ciImm h).extractLsb' 5 1) (cRdF h) ((ciImm h).extractLsb' 0 5) (quadF h) =
    h := by
  rw [ciImm_slices.1, ciImm_slices.2, encCI_fields]

theorem encCIW_fields (hq : quadF h = 0#2) (h3 : cFunct3F h = 0#3) : encCIW (ciwNzuimm h) (cRs2pF h) = h := by
  obtain ⟨e, -⟩ := append_inj (ciw_join (v := ciwNzuimm h) (lowZero_ciwNzuimm h))
  obtain ⟨e, hu2⟩ := append_inj e
  obtain ⟨e, hu3⟩ := append_inj e
  obtain ⟨hu6, hu4⟩ := append_inj e
  unfold encCIW
  rw [hu2, hu3, hu4, hu6, ← h3, ← hq, cFunct3F, cRs2pF, quadF, slice_join h 11 2 3, slice_join h 7 4 (3 + 2),
    slice_join h 6 1 (3 + 2 + 4), slice_join h 5 1 (3 + 2 + 4 + 1), slice_join h 2 3 (3 + 2 + 4 + 1 + 1),
    slice_join h 0 2 (3 + 2 + 4 + 1 + 1 + 3)]
  exact extract_all h

theorem encCLS_fields (hq : quadF h = 0#2) : encCLS (cFunct3F h) (clUimm h) (cRs1pF h) (cRs2pF h) = h := by
  obtain ⟨e, -⟩ := append_inj (cl_join (v := clUimm h) (lowZero_clUimm h))
  obtain ⟨e, hu2⟩ := append_inj e
  obtain ⟨hu6, hu3⟩ := append_inj e
  have hmid : h.extractLsb' 6 1 ++ h.extractLsb' 5 1 = cFunct2aF h := slice_join h 5 1 1
  unfold encCLS
  rw [hu2, hu3, hu6, hmid, ← hq]
  exact encCL_fields h

theorem encCB_fields (hq : quadF h = 1#2) : encCB (cFunct3F h) (cbOff h) (cRs1pF h) = h := by
  obtain ⟨e, -⟩ := append_inj (cb_join (v := cbOff h) (lowZero_cbOff h))
  obtain ⟨e, h1⟩ := append_inj e
  obtain ⟨e, h3⟩ := append_inj e
  obtain ⟨e, h5⟩ := append_inj e
  obtain ⟨h8, h6⟩ := append_inj e
  have hhi : h.extractLsb' 12 1 ++ h.extractLsb' 10 2 = h.extractLsb' 10 3 := slice_join h 10 2 1
  have hlo : h.extractLsb' 3 2 ++ h.extractLsb' 2 1 = cRs2pF h := slice_join h 2 1 2
  unfold encCB
  rw [h1, h3, h5, h6, h8, hhi, hlo, ← hq]
  exact encCL_fields h

theorem encCI_ciAddi16sp : encCI (cFunct3F h) ((ciAddi16sp h).extractLsb' 9 1) (cRdF h)
    ((ciAddi16sp h).extractLsb' 4 1 ++ (ciAddi16sp h).extractLsb' 6 1 ++ (ciAddi16sp h).extractLsb' 7 2 ++
      (ciAddi16sp h).extractLsb' 5 1) (quadF h) = h := by
  obtain ⟨e, -⟩ := append_inj (addi16sp_join (v := ciAddi16sp h) (lowZero_ciAddi16sp h))
  obtain ⟨e, h4⟩ := append_inj e
  obtain ⟨e, h5⟩ := append_inj e
  obtain ⟨e, h6⟩ := append_inj e
  obtain ⟨h9, h7⟩ := append_inj e
  have hlo : h.extractLsb' 6 1 ++ h.extractLsb' 5 1 ++ h.extractLsb' 3 2 ++ h.extractLsb' 2 1 = cRs2F h := by
    rw [slice_join h 5 1 1, slice_join h 3 2 (1 + 1), slice_join h 2 1 (1 + 1 + 2), cRs2F]
  rw [h4, h5, h6, h7, h9, hlo]
  exact encCI_fields h

theorem encCI_ciLwsp : encCI (cFunct3F h) ((ciLwsp h).extractLsb' 5 1) (cRdF h)
    ((ciLwsp h).extractLsb' 2 3 ++ (ciLwsp h).extractLsb' 6 2) (quadF h) = h := by
  obtain ⟨e, -⟩ := append_inj (lwsp_join (v := ciLwsp h) (lowZero_ciLwsp h))
  obtain ⟨e, h2⟩ := append_inj e
  obtain ⟨h6, h5⟩ := append_inj e
  have hlo : h.extractLsb' 4 3 ++ h.extractLsb' 2 2 = cRs2F h := slice_join h 2 2 3
  rw [h2, h5, h6, hlo]
  exact encCI_fields h

theorem encCSS_fields (hq : quadF h = 2#2) (h3 : cFunct3F h = 6#3) : encCSS (cssSwsp h) (cRs2F h) = h := by
  obtain ⟨e, -⟩ := append_inj (swsp_join (v := cssSwsp h) (lowZero_cssSwsp h))
  obtain ⟨h6, h2⟩ := append_inj e
  unfold encCSS
  rw [h2, h6, ← h3, ← hq, cFunct3F, cRs2F, quadF, slice_join h 9 4 3, slice_join h 7 2 (3 + 4),
    slice_join h 2 5 (3 + 4 + 2), slice_join h 0 2 (3 + 4 + 2 + 5)]
  exact extract_all h

theorem encCJ_fields (hq : quadF h = 1#2) : encCJ (cFunct3F h) (cjOff h) = h := by
  obtain ⟨e, -⟩ := append_inj (cj_join (v := cjOff h) (lowZero_cjOff h))
  obtain ⟨e, h1⟩ := append_inj e
  obtain ⟨e, h4⟩ := append_inj e
  obtain ⟨e, h5⟩ := append_inj e
  obtain ⟨e, h6⟩ := append_inj e
  obtain ⟨e, h7⟩ := append_inj e
  obtain ⟨e, h8⟩ := append_inj e
  obtain ⟨h11, h10⟩ := append_inj e
  unfold encCJ
  rw [h1, h4, h5, h6, h7, h8, h11, h10, ← hq, cFunct3F, quadF, slice_join h 12 1 3, slice_join h 11 1 (3 + 1),
    slice_join h 9 2 (3 + 1 + 1), slice_join h 8 1 (3 + 1 + 1 + 2), slice_join h 7 1 (3 + 1 + 1 + 2 + 1),
    slice_join h 6 1 (3 + 1 + 1 + 2 + 1 + 1), slice_join h 3 3 (3 + 1 + 1 + 2 + 1 + 1 + 1),
    slice_join h 2 1 (3 + 1 + 1 + 2 + 1 + 1 + 1 + 3), slice_join h 0 2 (3 + 1 + 1 + 2 + 1 + 1 + 1 + 3 + 1)]
  exact extract_all h

/-- `h[11:7]` of the CB forms that have the CI layout. -/
theorem cRdF_join : cFunct2F h ++ cRs1pF h = cRdF h := slice_join h 7 3 2

/-- `h[12:10]` of the CA forms. -/
theorem hi_join : cBit12F h ++ cFunct2F h = h.extractLsb' 10 3 := slice_join h 10 2 1

end

/-! ### Decoding after encoding

A 32-bit instruction is read by the part of the decoder that its opcode chooses, from the fields of its layout; a
compressed one by the equation of its layout (R137, R138), whose reserved operands well-formedness rules out. -/

/-- A well-formedness check of two parts, the second that a field is not a reserved value. -/
theorem and_ne_of_wf {b : Bool} {n : Nat} {v z : BitVec n} (h : (b && v != z) = true) : b = true ∧ v ≠ z :=
  ((Bool.and_eq_true ..).mp h).imp_right bne_iff_ne.mp

theorem decodeEncoding_encode {i : Instr} (h : i.wf = true) : decodeEncoding (encode i) = some i := by
  cases i
  case lui | auipc => simp [decodeEncoding, encode, decode32]
  case jal off => simp [decodeEncoding, encode, decode32, encJ, immJ_join h]
  case jalr => simp [decodeEncoding, encode, decode32]
  case beq | bne | blt | bge | bltu | bgeu =>
    simp [decodeEncoding, encode, encB, decode32_of_branch, decodeBranch, immB_join h]
  case lb | lh | lw | lbu | lhu => simp [decodeEncoding, encode, decode32_of_load, decodeLoad]
  case sb | sh | sw => simp [decodeEncoding, encode, encS, decode32_of_store, decodeStore, immS_join]
  case addi | slti | sltiu | xori | ori | andi | slli | srli | srai =>
    simp [decodeEncoding, encode, decode32_of_opImm, decodeOpImm]
  case add | sll | slt | sltu | xor | srl | or | and =>
    simp [decodeEncoding, encode, decode32_of_op, decodeOp, decodeOpBase]
  case sub | sra => simp [decodeEncoding, encode, decode32_of_op, decodeOp, decodeOpAlt]
  case mul | mulh | mulhsu | mulhu | div | divu | rem | remu =>
    simp [decodeEncoding, encode, decode32_of_op, decodeOp, decodeOpMul]
  case fence fm pred succ rs1 rd => exact decode32_encI_fence ..
  case fenceI => simp [decodeEncoding, encode, decode32_of_miscMem, decodeMiscMem]
  case ecall | ebreak => rfl
  case csrrw | csrrs | csrrc | csrrwi | csrrsi | csrrci =>
    simp [decodeEncoding, encode, decode32_of_system, decodeSystem]
  case lrW | scW | amoswapW | amoaddW | amoxorW | amoandW | amoorW | amominW | amomaxW | amominuW | amomaxuW =>
    simp [decodeEncoding, encode, decode32_of_amo, decodeAmo]
  case cAddi4spn rd imm =>
    obtain ⟨hlow, himm⟩ := and_ne_of_wf h
    exact (decode16_ciw ..).trans (by rw [ciw_join hlow, if_neg himm])
  case cLw rd rs1 imm => exact (decode16_cl ..).trans (by rw [cl_join h])
  case cSw rs1 rs2 imm => exact (decode16_cs ..).trans (by rw [cl_join h])
  case cNop imm => exact (decode16_ci_addi ..).trans (by rw [imm6_join, if_pos rfl])
  case cAddi rd imm =>
    exact (decode16_ci_addi ..).trans (by rw [imm6_join, if_neg (bne_iff_ne.mp h)])
  case cJal off =>
    obtain ⟨⟨hjal, -⟩, -⟩ := compressedControl
    exact (hjal ..).trans (by rw [cj_join h])
  case cLi rd imm => exact (decode16_ci_li ..).trans (by rw [imm6_join])
  case cAddi16sp imm =>
    obtain ⟨hlow, himm⟩ := and_ne_of_wf h
    exact (decode16_ci_addi16sp ..).trans (by rw [addi16sp_join hlow, if_neg himm])
  case cLui rd imm =>
    obtain ⟨hrd, himm⟩ := and_ne_of_wf h
    exact (decode16_ci_lui _ _ _ (bne_iff_ne.mp hrd)).trans (by rw [imm6_join, if_neg himm])
  case cSrli rd shamt => exact decode16_cb_srli ..
  case cSrai rd shamt => exact decode16_cb_srai ..
  case cAndi rd imm => exact (decode16_cb_andi ..).trans (by rw [imm6_join])
  case cSub | cXor | cOr | cAnd =>
    simp [decodeEncoding, encode, decode16_of_quad1, decodeQ1_of_alu, decodeQ1Alu, ca_fields]
  case cJ off =>
    obtain ⟨-, ⟨hj, -⟩, -⟩ := compressedControl
    exact (hj ..).trans (by rw [cj_join h])
  case cBeqz | cBnez => simp [decodeEncoding, encode, encCB, decode16_of_quad1, decodeQ1, cb_join h]
  case cSlli rd shamt => exact decode16_ci_slli ..
  case cLwsp rd imm =>
    obtain ⟨hlow, hrd⟩ := and_ne_of_wf h
    exact (decode16_ci_lwsp ..).trans (by rw [if_neg hrd, ciLwsp_encCI, lwsp_join hlow])
  case cJr rs1 => exact (decode16_cr_move ..).trans (if_neg (bne_iff_ne.mp h))
  case cMv rd rs2 => exact (decode16_cr_move ..).trans (if_neg (bne_iff_ne.mp h))
  case cEbreak => rfl
  case cJalr rs1 => exact (decode16_cr_add ..).trans (if_neg (bne_iff_ne.mp h))
  case cAdd rd rs2 => exact (decode16_cr_add ..).trans (if_neg (bne_iff_ne.mp h))
  case cSwsp rs2 imm => exact (decode16_css ..).trans (by rw [swsp_join h])

/-! ### The length of an accepted encoding (R120) -/

theorem isLong_eq_false_of_decode16 {h : Half} {i : Instr} (hd : decode16 h = some i) : isLong h = false := by
  by_contra hlong
  have hq : quadF h = 3#2 := by simpa [isLong] using hlong
  simp [decode16, hq] at hd

/-- The low bits of a low slice. -/
theorem extractLsb'_low_slice {n : Nat} (v : BitVec n) (m k : Nat) :
    (v.extractLsb' 0 (m + k)).extractLsb' 0 k = v.extractLsb' 0 k := by
  rw [← slice_join v 0 k m]
  exact extract_low _ _

/-- The opcode of an accepted word is that of a row, and each of those has both low bits set. -/
theorem isLong_of_decode32 {w : Word} {i : Instr} (hd : decode32 w = some i) : isLong (w.extractLsb' 0 16) = true := by
  have hstrict := decode32_strict w
  rw [hd] at hstrict
  obtain ⟨hmem, hmatch⟩ := hstrict
  obtain ⟨-, hop⟩ := List.mem_filter.mp (mem_rowsOf_of_matchesWord hmem hmatch)
  have hlow : ∀ r ∈ opcodeTable32, (opcodeF r.value).extractLsb' 0 2 = 3#2 := by decide
  have hw := hlow i.row hmem
  rw [eq_of_beq hop] at hw
  exact beq_iff_eq.mpr ((extractLsb'_low_slice w 14 2).trans ((extractLsb'_low_slice w 5 2).symm.trans hw))

/-- From the bytes of an accepted encoding the decoder reads its instruction, and leaves what follows them. -/
theorem decodeBytes_append {e : Encoding} {i : Instr} (hd : decodeEncoding e = some i) (rest : List Byte) :
    decodeBytes (e.bytes ++ rest) = .ok (i, rest) := by
  cases e with
  | half h =>
    have hjoin : h.extractLsb' 8 8 ++ h.extractLsb' 0 8 = h := (slice_join h 0 8 8).trans (extract_all h)
    have hdecode : decode16 h = some i := hd
    simp [Encoding.bytes, decodeBytes, hjoin, isLong_eq_false_of_decode16 hdecode, hdecode]
  | word w =>
    have hlow : w.extractLsb' 8 8 ++ w.extractLsb' 0 8 = w.extractLsb' 0 16 := slice_join w 0 8 8
    have hjoin : w.extractLsb' 24 8 ++ w.extractLsb' 16 8 ++ w.extractLsb' 8 8 ++ w.extractLsb' 0 8 = w := by
      rw [slice_join w 16 8 8, slice_join w 8 8 (8 + 8), slice_join w 0 8 (8 + 8 + 8)]
      exact extract_all w
    have hdecode : decode32 w = some i := hd
    simp [Encoding.bytes, decodeBytes, hlow, hjoin, isLong_of_decode32 hdecode, hdecode]

/-- Settles O18: the decoder reads back each encoding, and so its bytes with any bytes behind them. -/
theorem decodeEncode : Obligations.DecodeEncode := fun _ hwf =>
  ⟨decodeEncoding_encode hwf, decodeBytes_append (decodeEncoding_encode hwf)⟩

/-! ### Encoding after decoding

Each part of the decoder has fixed the fields that are constant in a layout; the instruction holds all the others. -/

/-- An accepted encoding, of which no bit is dropped, of a well-formed instruction. -/
def Faithful (e : Encoding) : Option Instr → Prop
  | some i => encode i = e ∧ i.wf = true
  | none => True

@[simp] theorem faithful_some {e : Encoding} {i : Instr} : Faithful e (some i) ↔ encode i = e ∧ i.wf = true :=
  Iff.rfl

@[simp] theorem faithful_none {e : Encoding} : Faithful e none := trivial

section
variable {w : Word}

theorem decodeBranch_faithful (hop : opcodeF w = 0x63#7) : Faithful (.word w) (decodeBranch w) := by
  have hw := encB_fields w
  unfold decodeBranch
  split <;> simp_all [encode, Instr.wf]

theorem decodeLoad_faithful (hop : opcodeF w = 0x03#7) : Faithful (.word w) (decodeLoad w) := by
  have hw := encI_fields w
  unfold decodeLoad
  split <;> simp_all [encode, Instr.wf]

theorem decodeStore_faithful (hop : opcodeF w = 0x23#7) : Faithful (.word w) (decodeStore w) := by
  have hw := encS_fields w
  unfold decodeStore
  split <;> simp_all [encode, Instr.wf]

theorem decodeOpImm_faithful (hop : opcodeF w = 0x13#7) : Faithful (.word w) (decodeOpImm w) := by
  have hI := encI_fields w
  have hR := encR_fields w
  unfold decodeOpImm
  split
  case h_7 => split <;> simp_all [encode, Instr.wf]
  case h_8 => split <;> simp_all [encode, Instr.wf]
  all_goals simp_all [encode, Instr.wf]

theorem decodeOp_faithful (hop : opcodeF w = 0x33#7) : Faithful (.word w) (decodeOp w) := by
  have hw := encR_fields w
  unfold decodeOp
  split
  case h_1 => unfold decodeOpBase; split <;> simp_all [encode, Instr.wf]
  case h_2 => unfold decodeOpAlt; split <;> simp_all [encode, Instr.wf]
  case h_3 => unfold decodeOpMul; split <;> simp_all [encode, Instr.wf]
  case h_4 => exact faithful_none

theorem decodeMiscMem_faithful (hop : opcodeF w = 0x0F#7) : Faithful (.word w) (decodeMiscMem w) := by
  have hw := encI_fields w
  have hjoin := fence_join w
  unfold decodeMiscMem
  split <;> simp_all [encode, Instr.wf]

theorem decodeSystem_faithful (hop : opcodeF w = 0x73#7) : Faithful (.word w) (decodeSystem w) := by
  have hw := encI_fields w
  unfold decodeSystem
  split
  case h_1 => split_ifs <;> simp_all [encode, Instr.wf]
  all_goals simp_all [encode, Instr.wf]

theorem decodeAmo_faithful (hop : opcodeF w = 0x2F#7) : Faithful (.word w) (decodeAmo w) := by
  unfold decodeAmo
  split
  case h_1 h3 =>
    have hw := encA_fields h3 hop
    split
    case h_1 => split <;> simp_all [encode, Instr.wf]
    all_goals simp_all [encode, Instr.wf]
  case h_2 => exact faithful_none

theorem decode32_faithful (w : Word) : Faithful (.word w) (decode32 w) := by
  have hU := encU_fields w
  have hJ := encJ_fields w
  have hI := encI_fields w
  unfold decode32
  split
  case h_4 => split <;> simp_all [encode, Instr.wf]
  case h_5 h => exact decodeBranch_faithful h
  case h_6 h => exact decodeLoad_faithful h
  case h_7 h => exact decodeStore_faithful h
  case h_8 h => exact decodeOpImm_faithful h
  case h_9 h => exact decodeOp_faithful h
  case h_10 h => exact decodeMiscMem_faithful h
  case h_11 h => exact decodeSystem_faithful h
  case h_12 h => exact decodeAmo_faithful h
  case h_13 => exact faithful_none
  all_goals simp_all [encode, Instr.wf]

end

section
variable {h : Half}

theorem bitVec2_eq_three {f : BitVec 2} (h0 : f ≠ 0#2) (h1 : f ≠ 1#2) (h2 : f ≠ 2#2) : f = 3#2 := by
  revert f
  decide

theorem decodeQ0_faithful (hq : quadF h = 0#2) : Faithful (.half h) (decodeQ0 h) := by
  have hcls := encCLS_fields hq
  unfold decodeQ0
  split
  case h_1 h3 => split <;> simp_all [encode, Instr.wf, encCIW_fields hq h3]
  all_goals simp_all [encode, Instr.wf]

/-- The shifts and C.ANDI have the CI layout, the register forms the CL layout. -/
theorem decodeQ1Alu_faithful (hq : quadF h = 1#2) (h3 : cFunct3F h = 4#3) : Faithful (.half h) (decodeQ1Alu h) := by
  have hci := encCI_fields h
  have himm := encCI_ciImm (h := h)
  have hcl := encCL_fields h
  rw [← cRdF_join, hq, h3] at hci himm
  rw [← hi_join, hq, h3] at hcl
  unfold decodeQ1Alu
  split
  case h_1 => split <;> simp_all [encode, Instr.wf]
  case h_2 => split <;> simp_all [encode, Instr.wf]
  case h_3 => simp_all [encode, Instr.wf]
  case h_4 h0 h1 h2 =>
    have hf2 : cFunct2F h = 3#2 := bitVec2_eq_three h0 h1 h2
    split
    next hbit =>
      rw [hbit, hf2] at hcl
      split
      case h_4 g0 g1 g2 =>
        rw [bitVec2_eq_three g0 g1 g2] at hcl
        exact ⟨congrArg Encoding.half hcl, rfl⟩
      all_goals simp_all [encode, Instr.wf]
    next => exact faithful_none

theorem decodeQ1_faithful (hq : quadF h = 1#2) : Faithful (.half h) (decodeQ1 h) := by
  have himm := encCI_ciImm (h := h)
  have hsp := encCI_ciAddi16sp (h := h)
  have hcj := encCJ_fields hq
  have hcb := encCB_fields hq
  unfold decodeQ1
  split
  case h_1 => split <;> simp_all [encode, Instr.wf]
  case h_4 => split_ifs <;> simp_all [encode, Instr.wf]
  case h_5 h3 => exact decodeQ1Alu_faithful hq h3
  case h_8 h0 h1 h2 h3 h4 h5 h6 =>
    have h7 : cFunct3F h = 7#3 := by
      have hcases := bitVec3_cases (cFunct3F h)
      tauto
    simp_all [encode, Instr.wf]
  all_goals simp_all [encode, Instr.wf]

theorem decodeQ2Jump_faithful (hq : quadF h = 2#2) (h3 : cFunct3F h = 4#3) : Faithful (.half h) (decodeQ2Jump h) := by
  have hci := encCI_fields h
  rw [hq, h3] at hci
  unfold decodeQ2Jump
  split
  next hbit => split_ifs <;> simp_all [encode, Instr.wf]
  next hbit =>
    rw [(BitVec.eq_zero_or_eq_one _).resolve_left hbit] at hci
    split_ifs with hrs2 hrd
    · rw [hrs2, hrd] at hci
      exact ⟨congrArg Encoding.half hci, rfl⟩
    all_goals simp_all [encode, Instr.wf]

theorem decodeQ2_faithful (hq : quadF h = 2#2) : Faithful (.half h) (decodeQ2 h) := by
  have hci := encCI_fields h
  have hlwsp := encCI_ciLwsp (h := h)
  unfold decodeQ2
  split
  case h_1 => split <;> simp_all [encode, Instr.wf]
  case h_2 => split <;> simp_all [encode, Instr.wf]
  case h_3 h3 => exact decodeQ2Jump_faithful hq h3
  case h_4 h3 => simp_all [encode, Instr.wf, encCSS_fields hq h3]
  case h_5 => exact faithful_none

theorem decode16_faithful (h : Half) : Faithful (.half h) (decode16 h) := by
  unfold decode16
  split
  case h_1 hq => exact decodeQ0_faithful hq
  case h_2 hq => exact decodeQ1_faithful hq
  case h_3 hq => exact decodeQ2_faithful hq
  case h_4 => exact faithful_none
end

/-- Settles O19: every part of the decoder is faithful. -/
theorem encodeDecode : Obligations.EncodeDecode := by
  intro e i hd
  cases e with
  | half h =>
    have hfaithful := decode16_faithful h
    rwa [show decode16 h = some i from hd, faithful_some] at hfaithful
  | word w =>
    have hfaithful := decode32_faithful w
    rwa [show decode32 w = some i from hd, faithful_some] at hfaithful

/-- Settles O22: each word is run through the decoder. -/
theorem decodeWords : Obligations.DecodeWords := by
  refine ⟨?_, ?_, ?_, ?_, ?_, ?_, ?_, ?_, ?_, ?_, ?_, ?_, ?_⟩ <;> rfl

end Sys2Proof.Machine
end

section
/-! SUPPORT. What an instruction of each shape can do: every meaning in one of thirteen forms, and from the forms what
each shape leaves alone, that the CSR storage has no effect, and that the pc stays even; the proofs of the statements. -/

namespace Sys2Proof.Machine

/-! ### The forms of the meanings (R442) -/

/-- The state with another CSR storage. -/
def withCsrs (m : List (Nat × Word)) (s : State) : State := { s with csrmem := m }

/-- A value of the state that the CSR storage has no part in. -/
def IgnoresCsrs {α : Type} (v : State → α) : Prop := ∀ m s, v (withCsrs m s) = v s

/-- The length of an instruction in bytes (R36). -/
def IsLength (ilen : Word) : Prop := ilen = 2#32 ∨ ilen = 4#32

/-- The meaning `f` of an instruction of the shape `k` is one of the shared operations; `wf` is the instruction's
well-formedness, which makes the displacement of a jump or branch even. -/
inductive Form (wf : Bool) : Kind → (State → Result) → Prop where
  | seq {k : Kind} {ilen : Word} (hl : IsLength ilen) (rd : RegIdx) {v : State → Word} (hv : IgnoresCsrs v) :
      Form wf k fun s => retireWith rd (v s) (s.pc + ilen) s
  | jal {ilen : Word} (hl : IsLength ilen) (rd : RegIdx) {disp : Word} (hd : wf = true → disp.getLsbD 0 = false) :
      Form wf .jump (jalOp ilen rd disp)
  | jalr {ilen : Word} (hl : IsLength ilen) (rd rs1 : RegIdx) (disp : Word) : Form wf .jump (jalrOp ilen rd rs1 disp)
  | branch (cond : Word → Word → Bool) {ilen : Word} (hl : IsLength ilen) (rs1 rs2 : RegIdx) {disp : Word}
      (hd : wf = true → disp.getLsbD 0 = false) : Form wf .branch (branchOp cond ilen rs1 rs2 disp)
  | load (n : Width) (ext : Word → Word) {ilen : Word} (hl : IsLength ilen) (rd rs1 : RegIdx) (disp : Word) :
      Form wf .load (loadOp n ext ilen rd rs1 disp)
  | store (n : Width) {ilen : Word} (hl : IsLength ilen) (rs1 rs2 : RegIdx) (disp : Word) :
      Form wf .store (storeOp n ilen rs1 rs2 disp)
  | lr (rd rs1 : RegIdx) (aq rl : Bool) : Form wf .lr (execLrW rd rs1 aq rl)
  | sc (rd rs1 rs2 : RegIdx) (aq rl : Bool) : Form wf .sc (execScW rd rs1 rs2 aq rl)
  | amo (op : Word → Word → Word) (rd rs1 rs2 : RegIdx) : Form wf .amo (amoOp op rd rs1 rs2)
  | ecall : Form wf .ecall envCall
  | ebreak : Form wf .ebreak fun s => halt .breakpoint s.pc s
  | csrWrite (rd : RegIdx) (c : CsrIdx) (src : State → Word) : Form wf .csr fun s => csrWriteOp rd c (src s) s
  | csrModify (f : Word → Word → Word) (rd : RegIdx) (c : CsrIdx) (src : State → Word) (field : BitVec 5) :
      Form wf .csr fun s => csrModifyOp f rd c (src s) field s

theorem isLength_two : IsLength 2#32 := .inl rfl
theorem isLength_four : IsLength 4#32 := .inr rfl

theorem even_sext {n : Nat} {off : BitVec n} (h : lowZero off 1 = true) : (sext off).getLsbD 0 = false := by
  have hbit : off.getLsbD 0 = false := getLsbD_of_slice (b := false) (eq_of_beq h)
  have hmsb : ¬ 0 < n → off.msb = false := fun hn => by
    obtain rfl : n = 0 := by omega
    rw [BitVec.eq_nil off]
    rfl
  rw [sext, BitVec.getLsbD_signExtend, hbit]
  split <;> simp [*]

theorem exec_form (i : Instr) : Form i.wf (kind i) (exec i) := by
  cases i
  case jal rd off => exact .jal isLength_four rd even_sext
  case cJal off => exact .jal isLength_two 1#5 even_sext
  case cJ off => exact .jal isLength_two 0#5 even_sext
  case jalr => exact .jalr isLength_four ..
  case cJr | cJalr => exact .jalr isLength_two ..
  case beq | bne | blt | bge | bltu | bgeu => exact .branch _ isLength_four _ _ even_sext
  case cBeqz | cBnez => exact .branch _ isLength_two _ _ even_sext
  case lb | lh | lw | lbu | lhu => exact .load _ _ isLength_four ..
  case cLw | cLwsp => exact .load _ _ isLength_two ..
  case sb | sh | sw => exact .store _ isLength_four ..
  case cSw | cSwsp => exact .store _ isLength_two ..
  case lrW rd rs1 aq rl => exact .lr rd rs1 aq rl
  case scW rd rs1 rs2 aq rl => exact .sc rd rs1 rs2 aq rl
  case amoswapW | amoaddW | amoxorW | amoandW | amoorW | amominW | amomaxW | amominuW | amomaxuW => exact .amo ..
  case ecall => exact .ecall
  case ebreak | cEbreak => exact .ebreak
  case csrrw rd csr rs1 => exact .csrWrite rd csr (readReg rs1)
  case csrrwi rd csr zimm => exact .csrWrite rd csr fun _ => zext zimm
  case csrrs rd csr rs1 => exact .csrModify csrSetBits rd csr (readReg rs1) rs1
  case csrrc rd csr rs1 => exact .csrModify csrClearBits rd csr (readReg rs1) rs1
  case csrrsi rd csr zimm => exact .csrModify csrSetBits rd csr (fun _ => zext zimm) zimm
  case csrrci rd csr zimm => exact .csrModify csrClearBits rd csr (fun _ => zext zimm) zimm
  case fence | fenceI => exact .seq isLength_four 0#5 (v := fun _ => 0#32) fun _ _ => rfl
  case cNop => exact .seq isLength_two 0#5 (v := fun _ => 0#32) fun _ _ => rfl
  case cAddi4spn | cAddi | cAddi16sp | cAndi | cLi | cLui | cMv => exact .seq isLength_two _ fun _ _ => rfl
  case cSrli | cSrai | cSlli | cSub | cXor | cOr | cAnd | cAdd => exact .seq isLength_two _ fun _ _ => rfl
  all_goals exact .seq isLength_four _ fun _ _ => rfl

/-! ### What each shape leaves alone -/

/-- What an instruction of the shape `k` leaves alone between `s` and `t`; a reservation valid afterwards, but one of
LR.W, was valid before, and its four bytes are as they were (R43). -/
structure Frame (k : Kind) (s t : State) : Prop where
  mem : k ∉ [.store, .sc, .amo, .ecall] → t.mem = s.mem
  dev : k ∉ [.load, .store, .lr, .sc, .amo] → t.dev = s.dev
  env : k ∉ [.load, .store, .lr, .sc, .amo, .ecall, .csr] → t.env = s.env
  csrmem : k ≠ .csr → t.csrmem = s.csrmem
  resvAddr : k ≠ .lr → t.resvAddr = s.resvAddr
  resvValid : k ∉ [.store, .lr, .sc, .amo, .ecall] → t.resvValid = s.resvValid
  reserved : k ≠ .lr → t.resvValid = true → s.resvValid = true ∧
    ∀ j, j < 4 → memByte t (s.resvAddr.toNat + j) = memByte s (s.resvAddr.toNat + j)
  dbg : t.dbg = s.dbg
  cfg : t.cfg = s.cfg

section
variable {k : Kind} {s t u : State}

theorem Frame.refl : Frame k s s :=
  ⟨fun _ => rfl, fun _ => rfl, fun _ => rfl, fun _ => rfl, fun _ => rfl, fun _ => rfl,
    fun _ hv => ⟨hv, fun _ _ => rfl⟩, rfl, rfl⟩

theorem Frame.trans (h : Frame k s t) (g : Frame k t u) : Frame k s u where
  mem hk := (g.mem hk).trans (h.mem hk)
  dev hk := (g.dev hk).trans (h.dev hk)
  env hk := (g.env hk).trans (h.env hk)
  csrmem hk := (g.csrmem hk).trans (h.csrmem hk)
  resvAddr hk := (g.resvAddr hk).trans (h.resvAddr hk)
  resvValid hk := (g.resvValid hk).trans (h.resvValid hk)
  reserved hk hu := by
    obtain ⟨ht, hbytesTU⟩ := g.reserved hk hu
    obtain ⟨hs, hbytesST⟩ := h.reserved hk ht
    rw [h.resvAddr hk] at hbytesTU
    exact ⟨hs, fun j hj => (hbytesTU j hj).trans (hbytesST j hj)⟩
  dbg := g.dbg.trans h.dbg
  cfg := g.cfg.trans h.cfg

/-- A change of the registers, the pc, the counter and the status only. -/
theorem Frame.ofCore (regs : Vector Word 32) (pc : Word) (instret : Dword) (status : RunStatus) :
    Frame k s { s with regs := regs, pc := pc, instret := instret, status := status } :=
  { (Frame.refl : Frame k s s) with }

theorem Frame.retire (h : Frame k s u) (rd : RegIdx) (v n : Word) : Frame k s (retire n (writeReg rd v u)) :=
  h.trans (.ofCore _ _ _ _)

/-- A change of the environment, as a draw of the clock is one. -/
theorem Frame.ofEnv (hk : k ∈ [.load, .store, .lr, .sc, .amo, .ecall, .csr]) (e : EnvState) :
    Frame k s { s with env := e } :=
  { (Frame.refl : Frame k s s) with env := absurd hk }

theorem Frame.devRead (hk : k ∈ [.load, .lr, .amo]) (d : Device) (o : Nat) (n : Width) :
    Frame k s (devRead d o n s).2 where
  mem _ := devRead_mem ..
  dev := absurd ((by decide : [Kind.load, .lr, .amo] ⊆ [.load, .store, .lr, .sc, .amo]) hk)
  env := absurd ((by decide : [Kind.load, .lr, .amo] ⊆ [.load, .store, .lr, .sc, .amo, .ecall, .csr]) hk)
  csrmem _ := devRead_csrmem ..
  resvAddr _ := devRead_resvAddr ..
  resvValid _ := devRead_resvValid ..
  reserved _ hv := ⟨(devRead_resvValid ..).symm.trans hv, fun _ _ => memByte_congr (devRead_mem ..) _⟩
  dbg := devRead_dbg ..
  cfg := devRead_cfg ..

theorem Frame.memRead (hk : k ∈ [.load, .lr, .amo]) {a : Word} {n : Width} {r : Word × State}
    (h : memRead a n s = some r) : Frame k s r.2 := by
  unfold Machine.memRead at h
  split at h <;> cases h
  · exact .refl
  · exact .devRead hk _ _ _

/-- A store into RAM: its snoop clears a reservation one of whose bytes it changes. -/
theorem Frame.writeRam (hk : k ∈ [.store, .sc, .amo, .ecall]) (a : Nat) (bs : List Byte) :
    Frame k s (writeRam a bs s) where
  mem := absurd hk
  dev _ := rfl
  env _ := rfl
  csrmem _ := rfl
  resvAddr _ := rfl
  resvValid := absurd ((by decide : [Kind.store, .sc, .amo, .ecall] ⊆ [.store, .lr, .sc, .amo, .ecall]) hk)
  reserved _ hv := by
    obtain ⟨-, hkept, hresv, -⟩ := storesBytes_writeRam s a bs
    obtain ⟨hvalid, hapart⟩ := hresv.mp hv
    exact ⟨hvalid, fun j hj => hkept _ (by omega)⟩
  dbg := rfl
  cfg := rfl

theorem Frame.devWrite (hk : k ∈ [.store, .sc, .amo]) (d : Device) (o : Nat) (n : Width) (v : Word) :
    Frame k s (devWrite d o n v s) where
  mem _ := devWrite_mem ..
  dev := absurd ((by decide : [Kind.store, .sc, .amo] ⊆ [.load, .store, .lr, .sc, .amo]) hk)
  env := absurd ((by decide : [Kind.store, .sc, .amo] ⊆ [.load, .store, .lr, .sc, .amo, .ecall, .csr]) hk)
  csrmem _ := devWrite_csrmem ..
  resvAddr _ := devWrite_resvAddr ..
  resvValid _ := devWrite_resvValid ..
  reserved _ hv := ⟨(devWrite_resvValid ..).symm.trans hv, fun _ _ => memByte_congr (devWrite_mem ..) _⟩
  dbg := devWrite_dbg ..
  cfg := devWrite_cfg ..

theorem Frame.snoop (hk : k ∈ [.store, .sc, .amo]) (a n : Nat) : Frame k s (resvSnoop a n s) :=
  { (Frame.refl : Frame k s s) with
    resvValid := absurd ((by decide : [Kind.store, .sc, .amo] ⊆ [.store, .lr, .sc, .amo, .ecall]) hk)
    reserved := fun _ hv => ⟨((Bool.and_eq_true ..).mp hv).1, fun _ _ => rfl⟩ }

theorem Frame.memWrite (hk : k ∈ [.store, .sc, .amo]) {a : Word} {n : Width} {v : Word}
    (h : memWrite a n v s = some t) : Frame k s t := by
  unfold Machine.memWrite at h
  split at h <;> cases h
  · exact .writeRam (List.mem_append_left [.ecall] hk) _ _
  · exact (Frame.devWrite hk _ _ _ _).trans (.snoop hk _ _)

theorem Frame.setResv (a : Word) : Frame .lr s (setResv a s) :=
  { (Frame.refl : Frame .lr s s) with
    resvAddr := absurd rfl
    resvValid := absurd (by decide)
    reserved := absurd rfl }

theorem Frame.clearResv : Frame .sc s (clearResv s) :=
  { (Frame.refl : Frame .sc s s) with
    resvValid := absurd (by decide)
    reserved := fun _ hv => nomatch hv }

theorem Frame.csrWrite (c : CsrIdx) (v : Word) : Frame .csr s (csrWrite c v s) :=
  { (Frame.refl : Frame .csr s s) with csrmem := absurd rfl }

theorem Frame.csrRead (c : CsrIdx) : Frame .csr s (csrRead c s).2 := by
  rcases csrRead_state c s with h | h <;> rw [h]
  · exact .refl
  · exact .ofEnv (by decide) _

/-- The frame of what a meaning answers. -/
def Framed (k : Kind) (s : State) : Result → Prop
  | .next t => Frame k s t
  | .fault _ => True
  | .refused _ => True

theorem loadOp_framed (n : Width) (ext : Word → Word) (ilen : Word) (rd rs1 : RegIdx) (disp : Word) :
    Framed .load s (loadOp n ext ilen rd rs1 disp s) := by
  cases h : memRead (effAddr rs1 disp s) n s with
  | none => rw [loadOp_none h]; exact .ofCore _ _ _ _
  | some r => rw [loadOp_some h]; exact (Frame.memRead (by decide) h).retire _ _ _

theorem storeOp_framed (n : Width) (ilen : Word) (rs1 rs2 : RegIdx) (disp : Word) :
    Framed .store s (storeOp n ilen rs1 rs2 disp s) := by
  cases h : memWrite (effAddr rs1 disp s) n (readReg rs2 s) s with
  | none => rw [storeOp_none h]; exact .ofCore _ _ _ _
  | some t => rw [storeOp_some h]; exact (Frame.memWrite (by decide) h).trans (.ofCore _ _ _ _)

theorem amoOp_framed (op : Word → Word → Word) (rd rs1 rs2 : RegIdx) : Framed .amo s (amoOp op rd rs1 rs2 s) := by
  cases h : memRead (readReg rs1 s) .word s with
  | none => rw [amoOp_none h]; exact .ofCore _ _ _ _
  | some r =>
    obtain ⟨t, hw, e⟩ := amoOp_some (op := op) (rd := rd) (rs2 := rs2) h
    rw [e]
    exact ((Frame.memRead (by decide) h).trans (.memWrite (by decide) hw)).retire _ _ _

theorem execLrW_framed (rd rs1 : RegIdx) (aq rl : Bool) : Framed .lr s (execLrW rd rs1 aq rl s) := by
  unfold execLrW
  split
  next r h => exact ((Frame.memRead (by decide) h).trans (.setResv _)).retire _ _ _
  next => exact .ofCore _ _ _ _

theorem execScW_framed (rd rs1 rs2 : RegIdx) (aq rl : Bool) : Framed .sc s (execScW rd rs1 rs2 aq rl s) := by
  unfold execScW
  split
  · split
    next t h => exact ((Frame.memWrite (by decide) h).trans .clearResv).retire _ _ _
    next => exact .ofCore _ _ _ _
  · exact Frame.clearResv.retire _ _ _

theorem csrModifyOp_framed (f : Word → Word → Word) (rd : RegIdx) (c : CsrIdx) (src : Word) (field : BitVec 5) :
    Framed .csr s (csrModifyOp f rd c src field s) := by
  refine Frame.retire ?_ _ _ _
  split
  · exact .csrRead c
  · exact (Frame.csrRead c).trans (.csrWrite _ _)

/-- An environment call changes the environment, and RAM by a store. -/
theorem envCall_framed : Framed .ecall s (envCall s) := by
  have henv (e : EnvState) : Frame .ecall s { s with env := e } := .ofEnv (by decide) e
  have hstore {u : State} (a : Nat) (bs : List Byte) (h : Frame .ecall s u) : Frame .ecall s (writeRam a bs u) :=
    h.trans (.writeRam (by decide) a bs)
  unfold envCall
  dsimp only
  split
  · exact .ofCore _ _ _ _
  split
  · unfold envWrite
    dsimp only
    split
    · exact (henv _).retire _ _ _
    · exact Frame.refl.retire _ _ _
  split
  · unfold envRead
    dsimp only
    split
    · exact (hstore _ _ (henv _)).retire _ _ _
    · exact Frame.refl.retire _ _ _
  split
  · unfold envBrk
    split
    · exact Frame.refl.retire _ _ _
    · exact (henv _).retire _ _ _
  split
  · exact (henv _).retire _ _ _
  split
  · refine Frame.retire ?_ _ _ _
    split
    · exact hstore _ _ (henv _)
    · exact henv _
  · exact Frame.refl.retire _ _ _

theorem Form.framed {wf : Bool} {f : State → Result} (h : Form wf k f) (s : State) : Framed k s (f s) := by
  cases h with
  | seq | jal | jalr => exact Frame.refl.retire _ _ _
  | branch => exact .ofCore _ _ _ _
  | load n ext hl rd rs1 disp => exact loadOp_framed n ext _ rd rs1 disp
  | store n hl rs1 rs2 disp => exact storeOp_framed n _ rs1 rs2 disp
  | lr rd rs1 aq rl => exact execLrW_framed rd rs1 aq rl
  | sc rd rs1 rs2 aq rl => exact execScW_framed rd rs1 rs2 aq rl
  | amo op rd rs1 rs2 => exact amoOp_framed op rd rs1 rs2
  | ecall => exact envCall_framed
  | ebreak => exact .ofCore _ _ _ _
  | csrWrite rd c src => exact ((Frame.csrRead c).trans (.csrWrite _ _)).retire _ _ _
  | csrModify f rd c src field => exact csrModifyOp_framed f rd c (src s) field

theorem exec_frame {i : Instr} (h : exec i s = .next t) : Frame (kind i) s t :=
  (h ▸ (exec_form i).framed s : Framed (kind i) s (.next t))

end

/-- Settles O16: the frame of the instruction's shape. -/
theorem whoChangesWhat : Obligations.WhoChangesWhat := by
  intro i s t hexec
  have hframe := exec_frame hexec
  exact ⟨fun hk => ⟨hframe.mem hk, memByte_congr (hframe.mem hk)⟩, hframe.dev, hframe.env, hframe.csrmem,
    hframe.resvAddr, hframe.dbg, hframe.cfg⟩

/-- Settles O34: an instruction other than LR.W moves no reservation, and one valid afterwards kept its bytes. -/
theorem reservationLifetime : Obligations.ReservationLifetime := by
  intro i s t hexec hvalid
  have hframe := exec_frame hexec
  by_cases hlr : kind i = .lr
  · exact .inl hlr
  · obtain ⟨hbefore, hbytes⟩ := hframe.reserved hlr hvalid
    exact .inr ⟨hbefore, hframe.resvAddr hlr, hbytes⟩

/-! ### The CSR storage has no part in the other instructions (R41) -/

/-- A change of the next state. -/
def mapNext (g : State → State) : Result → Result
  | .next t => .next (g t)
  | .fault f => .fault f
  | .refused r => .refused r

section
variable {m : List (Nat × Word)} {s : State}

theorem devRead_withCsrs (d : Device) (o : Nat) (n : Width) :
    devRead d o n (withCsrs m s) = ((devRead d o n s).1, withCsrs m (devRead d o n s).2) := by
  cases d
  case sysctl | framebuffer => rfl
  case keyboard =>
    simp only [devRead, kbdRead]
    split_ifs <;> rfl
  case timer =>
    cases n
    case word =>
      simp only [devRead, timerRead]
      split_ifs <;> rfl
    all_goals rfl
  case uart =>
    cases n
    case byte =>
      simp only [devRead, uartRead]
      split_ifs <;> rfl
    all_goals rfl

theorem devWrite_withCsrs (d : Device) (o : Nat) (n : Width) (v : Word) :
    devWrite d o n v (withCsrs m s) = withCsrs m (devWrite d o n v s) := by
  cases d
  case timer | framebuffer => rfl
  case keyboard => simp only [devWrite, kbdWrite, apply_ite (withCsrs m)]; rfl
  case sysctl =>
    cases n
    case word => simp only [devWrite, sysctlWrite, apply_ite (withCsrs m)]; rfl
    all_goals rfl
  case uart =>
    cases n
    case byte => simp only [devWrite, uartWrite, apply_ite (withCsrs m)]; rfl
    all_goals rfl

theorem memRead_withCsrs {a : Word} {n : Width} :
    memRead a n (withCsrs m s) = (memRead a n s).map fun r => (r.1, withCsrs m r.2) := by
  cases h : classify s.cfg a (widthBytes n) with
  | ram => rw [memRead_ram h, memRead_ram (s := withCsrs m s) h]; rfl
  | dev d o => rw [memRead_dev h, memRead_dev (s := withCsrs m s) h, devRead_withCsrs]; rfl
  | outOfRange => rw [memRead_out h, memRead_out (s := withCsrs m s) h]; rfl

theorem memWrite_withCsrs {a : Word} {n : Width} {v : Word} :
    memWrite a n v (withCsrs m s) = (memWrite a n v s).map (withCsrs m) := by
  cases h : classify s.cfg a (widthBytes n) with
  | ram => rw [memWrite_ram v h, memWrite_ram (s := withCsrs m s) v h]; rfl
  | dev d o => rw [memWrite_dev v h, memWrite_dev (s := withCsrs m s) v h, devWrite_withCsrs]; rfl
  | outOfRange => rw [memWrite_out v h, memWrite_out (s := withCsrs m s) v h]; rfl

variable (m s)

theorem loadOp_withCsrs (n : Width) (ext : Word → Word) (ilen : Word) (rd rs1 : RegIdx) (disp : Word) :
    loadOp n ext ilen rd rs1 disp (withCsrs m s) = mapNext (withCsrs m) (loadOp n ext ilen rd rs1 disp s) := by
  have hread := memRead_withCsrs (m := m) (s := s) (a := effAddr rs1 disp s) (n := n)
  cases h : memRead (effAddr rs1 disp s) n s with
  | none =>
    rw [h] at hread
    rw [loadOp_none h, loadOp_none (s := withCsrs m s) hread]
    rfl
  | some r =>
    rw [h] at hread
    rw [loadOp_some h, loadOp_some (s := withCsrs m s) hread]
    rfl

theorem storeOp_withCsrs (n : Width) (ilen : Word) (rs1 rs2 : RegIdx) (disp : Word) :
    storeOp n ilen rs1 rs2 disp (withCsrs m s) = mapNext (withCsrs m) (storeOp n ilen rs1 rs2 disp s) := by
  have hwrite := memWrite_withCsrs (m := m) (s := s) (a := effAddr rs1 disp s) (n := n) (v := readReg rs2 s)
  cases h : memWrite (effAddr rs1 disp s) n (readReg rs2 s) s with
  | none =>
    rw [h] at hwrite
    rw [storeOp_none h, storeOp_none (s := withCsrs m s) hwrite]
    rfl
  | some t =>
    rw [h] at hwrite
    rw [storeOp_some h, storeOp_some (s := withCsrs m s) hwrite]
    rfl

theorem execLrW_withCsrs (rd rs1 : RegIdx) (aq rl : Bool) :
    execLrW rd rs1 aq rl (withCsrs m s) = mapNext (withCsrs m) (execLrW rd rs1 aq rl s) := by
  have hread := memRead_withCsrs (m := m) (s := s) (a := readReg rs1 s) (n := .word)
  have hreg : readReg rs1 (withCsrs m s) = readReg rs1 s := rfl
  simp only [execLrW, hreg, hread]
  cases memRead (readReg rs1 s) .word s <;> rfl

theorem execScW_withCsrs (rd rs1 rs2 : RegIdx) (aq rl : Bool) :
    execScW rd rs1 rs2 aq rl (withCsrs m s) = mapNext (withCsrs m) (execScW rd rs1 rs2 aq rl s) := by
  have hwrite := memWrite_withCsrs (m := m) (s := s) (a := readReg rs1 s) (n := .word) (v := readReg rs2 s)
  have hreg (r : RegIdx) : readReg r (withCsrs m s) = readReg r s := rfl
  have hmatch (a : Word) : scMatches a (withCsrs m s) = scMatches a s := rfl
  simp only [execScW, hreg, hmatch, hwrite]
  split
  · cases memWrite (readReg rs1 s) .word (readReg rs2 s) s <;> rfl
  · rfl

theorem amoOp_withCsrs (op : Word → Word → Word) (rd rs1 rs2 : RegIdx) :
    amoOp op rd rs1 rs2 (withCsrs m s) = mapNext (withCsrs m) (amoOp op rd rs1 rs2 s) := by
  have hread := memRead_withCsrs (m := m) (s := s) (a := readReg rs1 s) (n := .word)
  have hreg (r : RegIdx) : readReg r (withCsrs m s) = readReg r s := rfl
  simp only [amoOp, hreg, hread]
  cases memRead (readReg rs1 s) .word s with
  | none => rfl
  | some r =>
    simp only [Option.map_some, memWrite_withCsrs]
    cases memWrite (readReg rs1 s) .word (op r.1 (readReg rs2 s)) r.2 <;> rfl

theorem envCall_withCsrs : envCall (withCsrs m s) = mapNext (withCsrs m) (envCall s) := by
  have hreg (r : RegIdx) : readReg r (withCsrs m s) = readReg r s := rfl
  unfold envCall
  simp only [hreg]
  split_ifs
  case pos => rfl
  case pos => simp only [envWrite, apply_ite (mapNext (withCsrs m))]; rfl
  case pos => simp only [envRead, apply_ite (mapNext (withCsrs m))]; rfl
  case pos => simp only [envBrk, apply_ite (mapNext (withCsrs m))]; rfl
  case pos => rfl
  case pos =>
    show envReturn 0#32 _ = envReturn 0#32 (withCsrs m _)
    simp only [apply_ite (withCsrs m)]
    rfl
  case neg => rfl

theorem Form.inert {wf : Bool} {k : Kind} {f : State → Result} (h : Form wf k f) (hk : k ≠ .csr) :
    f (withCsrs m s) = mapNext (withCsrs m) (f s) := by
  cases h with
  | seq _ rd hv => exact congrArg (fun v => retireWith rd v _ (withCsrs m s)) (hv m s)
  | jal | jalr | branch | ebreak => rfl
  | load n ext _ rd rs1 disp => exact loadOp_withCsrs m s n ext _ rd rs1 disp
  | store n _ rs1 rs2 disp => exact storeOp_withCsrs m s n _ rs1 rs2 disp
  | lr rd rs1 aq rl => exact execLrW_withCsrs m s rd rs1 aq rl
  | sc rd rs1 rs2 aq rl => exact execScW_withCsrs m s rd rs1 rs2 aq rl
  | amo op rd rs1 rs2 => exact amoOp_withCsrs m s op rd rs1 rs2
  | ecall => exact envCall_withCsrs m s
  | csrWrite | csrModify => exact absurd rfl hk

end

/-- Settles O17: each form but those of the CSR instructions answers the same next state with the other storage in it. -/
theorem csrStorageIsInert : Obligations.CsrStorageIsInert := by
  intro i s t m hk hexec
  have hinert := (exec_form i).inert m s hk
  rw [hexec] at hinert
  exact hinert

/-! ### The pc stays even (R35) -/

theorem even_add {a b : Word} (ha : a.getLsbD 0 = false) (hb : b.getLsbD 0 = false) : (a + b).getLsbD 0 = false := by
  simp only [BitVec.getLsbD, Nat.testBit_zero, decide_eq_false_iff_not, BitVec.toNat_add] at *
  omega

theorem even_clearBit0 (a : Word) : (clearBit0 a).getLsbD 0 = false := by
  simp [clearBit0]

theorem IsLength.even {ilen : Word} (h : IsLength ilen) : ilen.getLsbD 0 = false := by
  rcases h with rfl | rfl <;> rfl

/-- The pc of what a meaning answers is even. -/
def EvenPc : Result → Prop
  | .next t => PcEven t
  | .fault _ => True
  | .refused _ => True

section
variable {s : State}

theorem envCall_evenPc (he : PcEven s) : EvenPc (envCall s) := by
  have hnext : (s.pc + 4#32).getLsbD 0 = false := even_add he isLength_four.even
  unfold envCall
  dsimp only
  split_ifs
  case pos => exact he
  case pos => unfold envWrite; dsimp only; split <;> exact hnext
  case pos => unfold envRead; dsimp only; split <;> exact hnext
  case pos => unfold envBrk; split <;> exact hnext
  case pos => exact hnext
  case pos =>
    unfold envClock
    dsimp only
    split <;> exact hnext
  case neg => exact hnext

theorem loadOp_evenPc (n : Width) (ext : Word → Word) {ilen : Word} (hl : IsLength ilen) (rd rs1 : RegIdx)
    (disp : Word) (he : PcEven s) : EvenPc (loadOp n ext ilen rd rs1 disp s) := by
  unfold loadOp
  split
  · exact even_add he hl.even
  · exact he

theorem storeOp_evenPc (n : Width) {ilen : Word} (hl : IsLength ilen) (rs1 rs2 : RegIdx) (disp : Word)
    (he : PcEven s) : EvenPc (storeOp n ilen rs1 rs2 disp s) := by
  unfold storeOp
  split
  · exact even_add he hl.even
  · exact he

theorem Form.evenPc {k : Kind} {f : State → Result} (h : Form true k f) (he : PcEven s) : EvenPc (f s) := by
  have hnext {ilen : Word} (hl : IsLength ilen) : (s.pc + ilen).getLsbD 0 = false := even_add he hl.even
  cases h with
  | seq hl => exact hnext hl
  | jal _ _ hd => exact even_add he (hd rfl)
  | jalr => exact even_clearBit0 _
  | branch cond hl rs1 rs2 hd =>
    show (ite _ _ _ : Word).getLsbD 0 = false
    split
    · exact even_add he (hd rfl)
    · exact hnext hl
  | load n ext hl rd rs1 disp => exact loadOp_evenPc n ext hl rd rs1 disp he
  | store n hl rs1 rs2 disp => exact storeOp_evenPc n hl rs1 rs2 disp he
  | lr rd rs1 aq rl =>
    unfold execLrW
    split
    · exact hnext isLength_four
    · exact he
  | sc rd rs1 rs2 aq rl =>
    unfold execScW
    split
    · split
      · exact hnext isLength_four
      · exact he
    · exact hnext isLength_four
  | amo op rd rs1 rs2 =>
    unfold amoOp
    split
    · split
      · exact hnext isLength_four
      · exact he
    · exact he
  | ecall => exact envCall_evenPc he
  | ebreak => exact he
  | csrWrite | csrModify => exact hnext isLength_four

end

/-- Settles O5: a step that retires has run a well-formed instruction, since it was decoded; any other leaves the pc. -/
theorem pcStaysEven : Obligations.PcStaysEven := by
  intro s t heven hstep
  obtain ⟨-, hcases⟩ := step_cases hstep
  cases hcases with
  | quit | halts | exits => exact heven
  | retires _ hd _ rd v n hexec =>
    obtain ⟨-, hwf⟩ := encodeDecode _ _ hd
    have hnext := (hwf ▸ exec_form _).evenPc heven
    rw [hexec] at hnext
    exact hnext

/-! ### SC.W to a standing reservation (R333) -/

/-- The bytes of a value are its slices, from the lowest on. -/
theorem getElem_leBytes (n : Width) (v : Word) {k : Nat} (h : k < (leBytes n v).length) :
    (leBytes n v)[k] = v.extractLsb' (8 * k) 8 := by
  cases n <;> simp only [leBytes_length, widthBytes] at h <;> interval_cases k <;> rfl

section
variable {s t : State} {rd rs1 rs2 : RegIdx} {aq rl : Bool}

/-- To a standing reservation on RAM, SC.W gives 0 and stores the word. -/
theorem scW_of_matches (hv : t.resvValid = true) (ha : t.resvAddr = readReg rs1 t)
    (hram : classify t.cfg t.resvAddr 4 = .ram) :
    ∃ u, exec (.scW rd rs1 rs2 aq rl) t = .next u ∧ (rd ≠ 0#5 → readReg rd u = 0#32) ∧
      ∀ k, k < 4 → memByte u (t.resvAddr.toNat + k) = (readReg rs2 t).extractLsb' (8 * k) 8 := by
  rw [ha] at hram ⊢
  obtain ⟨u, hexec, hu⟩ := completesFrom_scW (rd := rd) (aq := aq) (rl := rl) (scMatches_iff.mpr ⟨hv, ha⟩)
    (memWrite_ram (n := .word) (readReg rs2 t) hram)
  refine ⟨u, hexec, fun hrd => hu.value.trans (if_neg hrd), fun k hk => ?_⟩
  have hk' : k < (leBytes .word (readReg rs2 t)).length := hk
  calc memByte u ((readReg rs1 t).toNat + k)
    _ = memByte (writeRam (readReg rs1 t).toNat (leBytes .word (readReg rs2 t)) t) ((readReg rs1 t).toNat + k) :=
      hu.bytes _
    _ = (leBytes .word (readReg rs2 t))[k] := (storesBytes_writeRam t _ _).stored k hk'
    _ = (readReg rs2 t).extractLsb' (8 * k) 8 := getElem_leBytes ..

/-- With no reservation, SC.W gives 1 and leaves RAM alone. -/
theorem scW_of_not_valid (hv : t.resvValid = false) :
    ∃ u, exec (.scW rd rs1 rs2 aq rl) t = .next u ∧ (rd ≠ 0#5 → readReg rd u = 1#32) ∧
      ∀ a, memByte u a = memByte t a := by
  have hm : ¬ scMatches (readReg rs1 t) t = true := by simp [scMatches, hv]
  obtain ⟨u, hexec, hu⟩ := completesFrom_scW_of_not_matches (rd := rd) (rs2 := rs2) (aq := aq) (rl := rl) hm
  exact ⟨u, hexec, fun hrd => hu.value.trans (if_neg hrd), hu.bytes⟩

/-- A byte stored into the reserved word clears the reservation. -/
theorem resvValid_of_sb {base src : RegIdx} {imm : BitVec 12} {k : Nat} (hk : k < 4)
    (hea : (readReg base s + imm.signExtend 32).toNat = s.resvAddr.toNat + k)
    (hram : classify s.cfg (readReg base s + imm.signExtend 32) 1 = .ram)
    (hexec : exec (.sb base src imm) s = .next t) : t.resvValid = false := by
  have hsb := storeOp_some (ilen := 4#32) (memWrite_ram (n := .byte) (readReg src s) hram)
  cases hexec.symm.trans hsb
  obtain ⟨-, -, hresv, -⟩ :=
    storesBytes_writeRam s (effAddr base (imm.signExtend 32) s).toNat (leBytes .byte (readReg src s))
  rw [retire_resvValid, ← Bool.not_eq_true, hresv, leBytes_length, widthBytes, effAddr, hea]
  omega

end

/-- Settles O35: an instruction of the other shapes leaves the reservation standing; a byte stored into it clears it. -/
theorem reservedPair : Obligations.ReservedPair := by
  intro s t rd rs1 rs2 aq rl hvalid haddr hram
  refine ⟨fun i hk hexec => ?harmless, fun base src imm k hk hea hbyte hexec => ?stored⟩
  case harmless =>
    have hframe := exec_frame hexec
    have haddr' : t.resvAddr = s.resvAddr := hframe.resvAddr fun h => hk (by rw [h]; decide)
    rw [← haddr'] at haddr hram ⊢
    exact scW_of_matches ((hframe.resvValid hk).trans hvalid) haddr (hframe.cfg ▸ hram)
  case stored => exact scW_of_not_valid (resvValid_of_sb hk hea hbyte hexec)

end Sys2Proof.Machine
end

section
/-! SUPPORT. A compressed instruction and its expansion (47_compressed.md R442): each pair of meanings is one shared
operation at two lengths, on the same operands; the proof of the statement. -/

namespace Sys2Proof.Machine

/-! ### Immediates of a compressed form in the expansion's (R138) -/

theorem sext_zeroExtend {n : Nat} (h : n < 12) (v : BitVec n) : sext (v.zeroExtend 12) = zext v := by
  have hmsb : (v.zeroExtend 12).msb = false := (BitVec.msb_setWidth'' v).trans (BitVec.getLsbD_of_ge v 11 (by omega))
  apply BitVec.eq_of_toNat_eq
  rw [sext, BitVec.signExtend_eq_setWidth_of_msb_false hmsb, zext, BitVec.toNat_setWidth,
    BitVec.toNat_setWidth_of_le h.le, BitVec.toNat_setWidth]

theorem sext_signExtend {n : Nat} (h : n ≤ 12) (v : BitVec n) : sext (v.signExtend 12) = sext v := by
  apply BitVec.eq_of_toInt_eq
  rw [sext, sext, BitVec.toInt_signExtend_of_le (by decide), BitVec.toInt_signExtend_of_le h,
    BitVec.toInt_signExtend_of_le (h.trans (by decide))]

/-! ### One operation at two lengths -/

/-- `short` is what `long` is with the pc at `pc + 2`, where `long` retires, and else the same. -/
def AsExpansion (s : State) (short long : Result) : Prop :=
  ∀ t, long = .next t →
    (t.status = .running → short = .next { t with pc := s.pc + 2#32 }) ∧ (t.status ≠ .running → short = .next t)

section
variable {s : State}

theorem asExpansion_retireWith {u : State} (hr : u.status = .running) (rd : RegIdx) {v w : Word} (n : Word)
    (hv : v = w) : AsExpansion s (retireWith rd v (s.pc + 2#32) u) (retireWith rd w n u) := by
  subst hv
  intro t ht
  cases ht
  exact ⟨fun _ => rfl, fun hended => absurd hr hended⟩

theorem asExpansion_ended {r : RunStatus} (hr : r ≠ .running) :
    AsExpansion s (.next { s with status := r }) (.next { s with status := r }) := by
  intro t ht
  cases ht
  exact ⟨fun h => absurd h hr, fun _ => rfl⟩

variable (hr : s.status = .running)
include hr

theorem asExpansion_loadOp (n : Width) (ext : Word → Word) (rd rs1 : RegIdx) {disp disp' : Word} (hd : disp = disp') :
    AsExpansion s (loadOp n ext 2#32 rd rs1 disp s) (loadOp n ext 4#32 rd rs1 disp' s) := by
  subst hd
  cases h : memRead (effAddr rs1 disp s) n s with
  | none =>
    rw [loadOp_none h, loadOp_none h]
    exact asExpansion_ended nofun
  | some r =>
    rw [loadOp_some h, loadOp_some h]
    exact asExpansion_retireWith ((memRead_effects h).same.status.trans hr) rd _ rfl

theorem asExpansion_storeOp (n : Width) (rs1 rs2 : RegIdx) {disp disp' : Word} (hd : disp = disp') :
    AsExpansion s (storeOp n 2#32 rs1 rs2 disp s) (storeOp n 4#32 rs1 rs2 disp' s) := by
  subst hd
  cases h : memWrite (effAddr rs1 disp s) n (readReg rs2 s) s with
  | none =>
    rw [storeOp_none h, storeOp_none h]
    exact asExpansion_ended nofun
  | some t =>
    rw [storeOp_some h, storeOp_some h]
    exact asExpansion_retireWith ((Effects.refl.memWrite h).same.status.trans hr) 0#5 _ (rfl : 0#32 = 0#32)

end

/-- Settles O47: by the compressed instruction; the immediates agree, and x0 reads 0. -/
theorem compressedAsExpansion : Obligations.CompressedAsExpansion := by
  intro i e s t hexpand hkind hr
  suffices h : AsExpansion s (exec i s) (exec e s) from h t
  cases i <;> cases hexpand
  case cAddi4spn rd imm =>
    exact asExpansion_retireWith hr _ _ (congrArg (addWord _) (sext_zeroExtend (by decide) imm).symm)
  case cLw | cLwsp => exact asExpansion_loadOp hr _ _ _ _ (sext_zeroExtend (by decide) _).symm
  case cSw | cSwsp => exact asExpansion_storeOp hr _ _ _ (sext_zeroExtend (by decide) _).symm
  case cNop => exact asExpansion_retireWith hr 0#5 _ (v := 0#32) (w := 0#32) rfl
  case cAddi rd imm | cAddi16sp imm =>
    exact asExpansion_retireWith hr _ _ (congrArg (addWord _) (sext_signExtend (by decide) imm).symm)
  case cAndi rd imm =>
    exact asExpansion_retireWith hr _ _ (congrArg (andWord _) (sext_signExtend (by decide) imm).symm)
  case cLi rd imm =>
    exact asExpansion_retireWith hr _ _ ((sext_signExtend (by decide) imm).symm.trans (BitVec.zero_add _).symm)
  case cLui rd imm => exact asExpansion_retireWith hr _ _ (immCLui_eq imm)
  case cMv rd rs2 => exact asExpansion_retireWith hr _ _ (BitVec.zero_add _).symm
  case cSrli | cSrai | cSub | cXor | cOr | cAnd | cSlli | cAdd => exact asExpansion_retireWith hr _ _ rfl
  case cEbreak => exact asExpansion_ended nofun
  all_goals exact absurd (by simp [kind]) hkind

end Sys2Proof.Machine
end

section
/-! SUPPORT. Steps in a row (40_step_cycle.md; 70_reset_and_hazards.md R560, R584, R585): the halts before execution and the
instruction that a step runs, the counter, the rings, reverse steps, the timer; the proofs of the statements. -/

namespace Sys2Proof.Machine

/-! ### The halts before execution (R475) -/

theorem fetch_odd {s : State} (h0 : s.pc.getLsbD 0 = true) : fetch s = .fatal .misalignedFetch s.pc := by
  simp only [fetch, fetchHalf_odd h0]

theorem fetch_out {s : State} (h0 : s.pc.getLsbD 0 = false) (h1 : s.cfg.memSize < s.pc.toNat + 2) :
    fetch s = .fatal .fetchOutOfRange s.pc := by
  simp only [fetch, fetchHalf_out h0 h1]

/-- Settles O8: the fetch in each case, and the decoder where it gives an encoding. -/
theorem haltPriority : Obligations.HaltPriority := by
  intro s hrun hquit
  refine ⟨fun hodd => ?odd, fun heven hout => ?out, fun heven hfirst => ⟨fun hshort hnone => ?illegalHalf,
    fun hlong hout => ?outSecond, fun hlong hsecond hnone => ?illegalWord⟩⟩
  case odd => exact step_fatal hrun hquit (fetch_odd hodd)
  case out => exact step_fatal hrun hquit (fetch_out heven hout)
  case illegalHalf =>
    exact step_illegal hrun hquit (fetch_half heven hfirst hshort) (Option.eq_none_iff_forall_ne_some.mpr hnone)
  case outSecond => exact step_fatal hrun hquit (fetch_word_out heven hfirst hlong hout)
  case illegalWord =>
    exact step_illegal hrun hquit (fetch_word heven hfirst hlong hsecond) (Option.eq_none_iff_forall_ne_some.mpr hnone)

/-- Settles O9: the fetch at either length, then the decoder and `exec`. -/
theorem stepRunsDecoded : Obligations.StepRunsDecoded := fun _ _ hrun hquit heven hfirst =>
  ⟨fun hshort hdecode _ hexec => step_decoded hrun hquit (fetch_half heven hfirst hshort) hdecode hexec,
   fun hlong hsecond hdecode _ hexec => step_decoded hrun hquit (fetch_word heven hfirst hlong hsecond) hdecode hexec⟩

/-! ### What a retiring step does -/

/-- A retiring step runs the instruction that is fetched, which counts once, and records it. -/
theorem recorded_of_stepRetires {s t : State} (h : stepRetires s t) : ∃ e i u,
    fetch s = .ok e ∧ decodeEncoding e = some i ∧ u.status = .running ∧ u.instret = s.instret + 1#64 ∧ u.dbg = s.dbg ∧
      t = recordStep s e i u := by
  obtain ⟨hstep, hrun⟩ := h
  obtain ⟨hr, hcases⟩ := step_cases hstep
  cases hcases with
  | quit | halts | exits => cases hrun
  | retires hf hd hu rd v n _ =>
    obtain ⟨hstatus, hcount⟩ := hu.status_instret_retire rd v n
    exact ⟨_, _, _, hf, hd, hstatus.trans hr, hcount, hu.same.dbg, rfl⟩

theorem instret_of_stepRetires {s t : State} (h : stepRetires s t) : t.instret = s.instret + 1#64 := by
  obtain ⟨e, i, u, -, -, -, hcount, -, rfl⟩ := recorded_of_stepRetires h
  exact hcount

/-- Settles O11: induction on the number of steps. -/
theorem counterCountsSteps : Obligations.CounterCountsSteps := by
  refine ⟨fun n => ?retiring, fun s t hstep hended => ?ending⟩
  case retiring =>
    induction n with
    | zero => rintro s t rfl; exact (BitVec.add_zero _).symm
    | succ n ih =>
      rintro s t ⟨u, hstep, hrest⟩
      rw [ih u t hrest, instret_of_stepRetires hstep, BitVec.add_assoc, ← BitVec.ofNat_add, Nat.add_comm 1 n]
  case ending =>
    have hframe := haltChangesNothing s t hstep hended
    exact (congrArg State.instret hframe :)

/-- Settles O12: the record is of the encoding that was fetched. -/
theorem ringsAfterStep : Obligations.RingsAfterStep := by
  intro s t hret
  obtain ⟨e, i, u, hfetch, hdecode, hrun, -, hdbg, rfl⟩ := recorded_of_stepRetires hret
  rw [recordStep_running e i hrun, hdbg]
  refine ⟨rfl, traceOf s e i, rfl, rfl, rfl, ?_⟩
  obtain ⟨-, -, ⟨hshort, rfl⟩ | ⟨hlong, -, rfl⟩⟩ := fetch_ok hfetch
  · exact ⟨fun _ => ⟨rfl, hdecode⟩, fun hlong => absurd hlong hshort⟩
  · exact ⟨fun hshort => absurd hlong hshort, fun _ => ⟨rfl, hdecode⟩⟩

/-! ### Reverse steps (R584) -/

theorem snapshots_of_stepRetires {s t : State} (h : stepRetires s t) :
    t.dbg.snapshots = (snapshotOf s :: s.dbg.snapshots).take 512 :=
  (ringsAfterStep s t h).1

/-- After `k` retiring steps the ring begins with `k` snapshots (as far as it holds them), the last of them of the state
they began in. -/
theorem snapshots_of_retires {k : Nat} {s t : State} (h : retires k s t) : ∃ ps : List Snapshot, ps.length = k ∧
    t.dbg.snapshots.take 512 = (ps ++ s.dbg.snapshots).take 512 ∧ ps.getLastD (snapshotOf t) = snapshotOf s := by
  induction k generalizing s with
  | zero => cases h; exact ⟨[], rfl, rfl, rfl⟩
  | succ k ih =>
    obtain ⟨u, hstep, hrest⟩ := h
    obtain ⟨ps, rfl, hring, -⟩ := ih hrest
    refine ⟨ps ++ [snapshotOf s], List.length_append, ?_, List.getLastD_concat ..⟩
    rw [hring, snapshots_of_stepRetires hstep, List.append_assoc, List.singleton_append, List.take_append,
      List.take_append, List.take_take, Nat.min_eq_left (Nat.sub_le _ _)]

/-- What a reverse step leaves alone. -/
def SameButCore (s u : State) : Prop :=
  { u with pc := s.pc, regs := s.regs, instret := s.instret, dbg := s.dbg } = s

theorem reverseStep_cons {t : State} {p : Snapshot} {rest : List Snapshot} (h : t.dbg.snapshots = p :: rest) :
    reverseStep t = some (restore p rest t) := by
  simp only [reverseStep, h]

theorem restore_of_reverseStep {s t : State} (h : reverseStep s = some t) :
    ∃ p older, s.dbg.snapshots = p :: older ∧ t = restore p older s := by
  cases hring : s.dbg.snapshots with
  | nil => simp only [reverseStep, hring, reduceCtorEq] at h
  | cons p older =>
    rw [reverseStep_cons hring, Option.some.injEq] at h
    exact ⟨p, older, rfl, h.symm⟩

/-- As many reverse steps as there are snapshots in `ps` restore the last of them. -/
theorem reverses_of_snapshots {ps rest : List Snapshot} {t : State} (h : t.dbg.snapshots = ps ++ rest) :
    ∃ u, reverses ps.length t = some u ∧ snapshotOf u = ps.getLastD (snapshotOf t) ∧ SameButCore t u := by
  induction ps generalizing t with
  | nil => exact ⟨t, rfl, rfl, rfl⟩
  | cons p ps ih =>
    obtain ⟨u, hu, hlast, hsame⟩ := ih (t := restore p (ps ++ rest) t) rfl
    refine ⟨u, ?_, ?_, ?_⟩
    · simp only [List.length_cons, reverses, reverseStep_cons h]
      exact hu
    · rw [List.getLastD_cons]
      exact hlast
    · exact (congrArg (fun x : State => { x with pc := t.pc, regs := t.regs, instret := t.instret, dbg := t.dbg }) hsame :)

/-- Settles O13: the newest `k` snapshots of the ring are those of the `k` steps. -/
theorem reverseRestores : Obligations.ReverseRestores := by
  refine ⟨fun k s t hk hret => ?restores, fun s t hrev => ?pops, fun s hempty => ?refuses⟩
  case restores =>
    obtain ⟨ps, rfl, hring, hlast⟩ := snapshots_of_retires hret
    rw [List.take_append, List.take_of_length_le hk] at hring
    have hprefix : ps <+: t.dbg.snapshots := (hring ▸ List.prefix_append ps _ : ps <+: _).trans (List.take_prefix ..)
    obtain ⟨rest, hrest⟩ := hprefix
    obtain ⟨u, hu, hcore, hsame⟩ := reverses_of_snapshots hrest.symm
    obtain ⟨hpc, hregs, hinstret⟩ := Snapshot.mk.inj (hcore.trans hlast)
    exact ⟨u, hu, hpc, hregs, hinstret, (congrArg State.cfg hsame :), (congrArg State.mem hsame :),
      (congrArg State.csrmem hsame :), (congrArg State.resvValid hsame :), (congrArg State.resvAddr hsame :),
      (congrArg State.dev hsame :), (congrArg State.env hsame :), (congrArg State.status hsame :)⟩
  case pops =>
    obtain ⟨p, older, hring, rfl⟩ := restore_of_reverseStep hrev
    exact ⟨by rw [hring]; rfl, rfl⟩
  case refuses => simp only [reverseStep, hempty]

/-! ### What creation fixes (R560) -/

/-- Settles O14: a step by its cases, a host action by its constructor; none writes either field. -/
theorem creationIsFixed : Obligations.CreationIsFixed := by
  refine ⟨fun s t hstep => ?step, fun x s t hact => ?host⟩
  case step =>
    obtain ⟨-, hcases⟩ := step_cases hstep
    cases hcases with
    | quit | halts | exits => exact ⟨rfl, rfl⟩
    | retires _ _ hu => exact ⟨hu.same.cfg, hu.same.t0Host⟩
  case host =>
    cases x with
    | loadImage bytes addr entry =>
      by_cases hfit : addr.toNat + bytes.length ≤ s.cfg.memSize
      · obtain rfl := Option.some.inj ((loadImage_of_le hfit entry).symm.trans hact)
        exact ⟨rfl, rfl⟩
      · cases (loadImage_of_lt (Nat.lt_of_not_le hfit) entry).symm.trans hact
    | reverseStep =>
      obtain ⟨p, older, -, rfl⟩ := restore_of_reverseStep hact
      exact ⟨rfl, rfl⟩
    | writeByte a b =>
      obtain rfl := Option.some.inj hact
      by_cases hin : a.toNat < s.cfg.memSize
      · rw [hostWriteByte, if_pos hin]
        exact ⟨rfl, rfl⟩
      · rw [hostWriteByte, if_neg hin]
        exact ⟨rfl, rfl⟩
    | _ => cases hact; exact ⟨rfl, rfl⟩

/-! ### The timer (R531) -/

/-- A step does not turn the clock back. -/
theorem clockLast_le_of_step {s t : State} (h : step s = .next t) : s.env.clockLast ≤ t.env.clockLast := by
  obtain ⟨-, hcases⟩ := step_cases h
  cases hcases with
  | quit | halts | exits => exact BitVec.le_refl _
  | retires _ _ hu => exact hu.same.clock

theorem clock_of_reaches {n : Nat} {s t : State} (h : reaches n s t) :
    s.env.clockLast ≤ t.env.clockLast ∧ t.env.t0Host = s.env.t0Host := by
  induction n generalizing s with
  | zero => cases h; exact ⟨BitVec.le_refl _, rfl⟩
  | succ n ih =>
    obtain ⟨u, hstep, hrest⟩ := h
    obtain ⟨hle, horigin⟩ := ih hrest
    exact ⟨BitVec.le_trans (clockLast_le_of_step hstep) hle, horigin.trans (creationIsFixed.1 _ _ hstep).2⟩

/-- Settles O51: the clock does not go back, so a later reading is at least the one drawn; the origin is below both. -/
theorem timerMonotone : Obligations.TimerMonotone := by
  intro n s u t hinv horigin hdraw hreach
  obtain ⟨hle, horigin'⟩ := clock_of_reaches hreach
  rw [hdraw, drawClock_clockLast] at hle
  have hst : clockReading s ≤ clockReading t := BitVec.le_trans hle (clockLast_le_clockReading t)
  have hs : s.env.t0Host ≤ clockReading s := BitVec.le_trans hinv.clock (clockLast_le_clockReading s)
  refine ⟨by rw [timerValue, drawClock_clockLast, BitVec.add_comm, BitVec.sub_add_cancel], ?_⟩
  rw [timerValue, timerValue, horigin', horigin]
  bv_omega

end Sys2Proof.Machine
end

section
/-! SUPPORT. A word stored in RAM, then read or fetched (20_memory.md sections 5 and 8): what a store that reaches RAM
and a load that reaches RAM answer, and the proofs of the two statements. -/

namespace Sys2Proof.Machine

/-! ### Stores and loads that reach RAM -/

section
variable {s t : State} {n : Width} {rd rs1 rs2 : RegIdx}

/-- A store that reaches RAM leaves the configuration and the registers, and stores the low bytes of `x[rs2]`. -/
theorem ramStored_of_storeOp {i : Instr} {ilen disp ea : Word} (h : exec i s = storeOp n ilen rs1 rs2 disp s)
    (hea : readReg rs1 s + disp = ea) (hram : classify s.cfg ea (widthBytes n) = .ram) :
    ∃ t, exec i s = .next t ∧ t.cfg = s.cfg ∧ (∀ r, readReg r t = readReg r s) ∧
      ∀ k, k < widthBytes n → memByte t (ea.toNat + k) = (readReg rs2 s).extractLsb' (8 * k) 8 := by
  subst hea
  refine ⟨_, h.trans (storeOp_some (memWrite_ram _ hram)), rfl, fun r => readReg_retire .., fun k hk => ?_⟩
  have hlen : k < (leBytes n (readReg rs2 s)).length := hk.trans_eq (leBytes_length n _).symm
  exact ((storesBytes_writeRam s _ _).stored k hlen).trans (getElem_leBytes n _ hlen)

theorem value_of_loadsAt {i : Instr} {ea nextPc : Word} {val : (Nat → Byte) → Word} {ext : Word → Word}
    (h : LoadsAt i s rd n ea nextPc val ext) (hrd : rd ≠ 0#5) (hram : classify s.cfg ea (widthBytes n) = .ram) :
    ∃ t, exec i s = .next t ∧ readReg rd t = val fun k => memByte s (ea.toNat + k) := by
  obtain ⟨t, hexec, hw⟩ := h.1 hram
  exact ⟨t, hexec, hw.value.trans (if_neg hrd)⟩

end

/-! ### Addresses a few bytes above a register (R270) -/

section
variable {c : Config} {a : Word} {k : Nat}

theorem signExtend_ofNat_of_lt_four (hk : k < 4) : (BitVec.ofNat 12 k).signExtend 32 = BitVec.ofNat 32 k := by
  interval_cases k <;> rfl

theorem toNat_add_of_lt_four (hin : a.toNat + 4 ≤ c.memSize) (hmax : c.memSize ≤ 2 ^ 27) (hk : k < 4) :
    (a + BitVec.ofNat 32 k).toNat = a.toNat + k := by
  rw [BitVec.toNat_add, BitVec.toNat_ofNat]
  omega

/-- Inside the four bytes at `a`, an access under no device reaches RAM. -/
theorem classify_add_of_lt_four {n : Nat} (hin : a.toNat + 4 ≤ c.memSize) (hmax : c.memSize ≤ 2 ^ 27)
    (hdev : ∀ k, k < 4 → deviceAt c (a + BitVec.ofNat 32 k) = none) (hk : k < 4) (hn : k + n ≤ 4) :
    classify c (a + BitVec.ofNat 32 k) n = .ram := by
  rw [classify_eq_ram_iff, toNat_add_of_lt_four hin hmax hk]
  exact ⟨hdev k hk, by omega⟩

end

/-! ### A stored word read back (R84) -/

section
variable {s : State} {a : Word} {rd rs1 : RegIdx}

theorem lbu_of_ram {k : Nat} (ha : readReg rs1 s = a) (hrd : rd ≠ 0#5) (hk : k < 4)
    (hin : a.toNat + 4 ≤ s.cfg.memSize) (hmax : s.cfg.memSize ≤ 2 ^ 27)
    (hdev : ∀ k, k < 4 → deviceAt s.cfg (a + BitVec.ofNat 32 k) = none) :
    ∃ t, exec (.lbu rd rs1 (BitVec.ofNat 12 k)) s = .next t ∧
      readReg rd t = (memByte s (a.toNat + k)).zeroExtend 32 := by
  obtain ⟨-, -, -, ⟨-, hload⟩, -⟩ := loads
  have hat := hload rd rs1 (BitVec.ofNat 12 k) s
  rw [ha, signExtend_ofNat_of_lt_four hk] at hat
  obtain ⟨t, hexec, hvalue⟩ := value_of_loadsAt hat hrd (classify_add_of_lt_four hin hmax hdev hk hk)
  exact ⟨t, hexec, by rw [hvalue, toNat_add_of_lt_four hin hmax hk]; rfl⟩

theorem lhu_of_ram (ha : readReg rs1 s = a) (hrd : rd ≠ 0#5)
    (hin : a.toNat + 4 ≤ s.cfg.memSize) (hmax : s.cfg.memSize ≤ 2 ^ 27)
    (hdev : ∀ k, k < 4 → deviceAt s.cfg (a + BitVec.ofNat 32 k) = none) :
    ∃ t, exec (.lhu rd rs1 2#12) s = .next t ∧ readReg rd t = (ramHalf s (a.toNat + 2)).zeroExtend 32 := by
  obtain ⟨-, -, -, -, -, hload⟩ := loads
  have hat := hload rd rs1 2#12 s
  have htwo : 2 < 4 := by decide
  rw [ha, signExtend_ofNat_of_lt_four htwo] at hat
  obtain ⟨t, hexec, hvalue⟩ := value_of_loadsAt hat hrd (classify_add_of_lt_four hin hmax hdev htwo (by decide))
  exact ⟨t, hexec, by rw [hvalue, toNat_add_of_lt_four hin hmax htwo]; rfl⟩

/-- The bytes of `v` at `b` and `b + 1`, as a halfword. -/
theorem ramHalf_of_bytes {s : State} {b j : Nat} {v : Word} (h0 : memByte s b = v.extractLsb' j 8)
    (h1 : memByte s (b + 1) = v.extractLsb' (j + 8) 8) : ramHalf s b = v.extractLsb' j 16 := by
  rw [ramHalf, h0, h1]
  exact slice_join v j 8 8

end

theorem storeAddr_zero (a : Word) : a + sext 0#12 = a := BitVec.add_zero a

/-- Settles O29: the store leaves its bytes in RAM, and each load gives the bytes it finds there. -/
theorem storeThenLoad : Obligations.StoreThenLoad := by
  intro s t rs1 rs2 rd hrd hin hmax hdev hsw
  have hclass (n : Nat) (hn : n ≤ 4) : classify s.cfg (readReg rs1 s) n = .ram := by
    have h := classify_add_of_lt_four (k := 0) hin hmax hdev (by decide) ((Nat.zero_add n).trans_le hn)
    rwa [BitVec.add_zero] at h
  refine ⟨?bytes, ?half, ?byte⟩
  case byte =>
    obtain ⟨u, hexec, hcfg, hregs, hbytes⟩ := ramStored_of_storeOp (i := .sb rs1 rs2 0#12) (n := .byte) rfl
      (storeAddr_zero _) (hclass 1 (by decide))
    rw [← hcfg] at hin hmax hdev
    obtain ⟨v, hload, hvalue⟩ := lbu_of_ram (k := 0) (hregs rs1) hrd (by decide) hin hmax hdev
    exact ⟨u, v, hexec, hload, hvalue.trans (congrArg (BitVec.zeroExtend 32) (hbytes 0 (by decide)))⟩
  all_goals
    obtain ⟨t', hexec, hcfg, hregs, hbytes⟩ := ramStored_of_storeOp (i := .sw rs1 rs2 0#12) (n := .word) rfl
      (storeAddr_zero _) (hclass 4 (by decide))
    cases hexec.symm.trans hsw
    rw [← hcfg] at hin hmax hdev
  case bytes =>
    intro k hk
    obtain ⟨u, hload, hvalue⟩ := lbu_of_ram (hregs rs1) hrd hk hin hmax hdev
    exact ⟨u, hload, hvalue.trans (congrArg (BitVec.zeroExtend 32) (hbytes k hk))⟩
  case half =>
    obtain ⟨u, hload, hvalue⟩ := lhu_of_ram (hregs rs1) hrd hin hmax hdev
    have hhalf := ramHalf_of_bytes (j := 16) (hbytes 2 (by decide)) (hbytes 3 (by decide))
    exact ⟨u, hload, hvalue.trans (congrArg (BitVec.zeroExtend 32) hhalf)⟩

/-! ### A stored word fetched (R93) -/

theorem append_halves (v : Word) : v.extractLsb' 16 16 ++ v.extractLsb' 0 16 = v :=
  (slice_join v 0 16 16).trans (extract_all v)

/-- The length bits of a word are those of its low half. -/
theorem extractLsb'_low_half (v : Word) : (v.extractLsb' 0 16).extractLsb' 0 2 = v.extractLsb' 0 2 := by
  have h := extract_right (v.extractLsb' 16 16) (v.extractLsb' 0 16) 0 2 (by decide)
  rw [append_halves] at h
  exact h.symm

/-- Settles O30: the store leaves the bytes of `x[rs2]` in RAM, and the fetch reads them there. -/
theorem storeThenFetch : Obligations.StoreThenFetch := by
  intro s t rs1 rs2 hram hmax heven hsw
  obtain ⟨t', hexec, hcfg, -, hbytes⟩ := ramStored_of_storeOp (i := .sw rs1 rs2 0#12) (n := .word) rfl
    (storeAddr_zero _) hram
  cases hexec.symm.trans hsw
  have hin : (readReg rs1 s).toNat + 4 ≤ s.cfg.memSize := classify_ram_le hram
  have htwo : (readReg rs1 s + 2#32).toNat = (readReg rs1 s).toNat + 2 := toNat_add_of_lt_four hin hmax (by decide)
  have hlow : ramHalf t (readReg rs1 s).toNat = (readReg rs2 s).extractLsb' 0 16 :=
    ramHalf_of_bytes (hbytes 0 (by decide)) (hbytes 1 (by decide))
  have hhigh : ramHalf t (readReg rs1 s + 2#32).toNat = (readReg rs2 s).extractLsb' 16 16 := by
    rw [htwo]
    exact ramHalf_of_bytes (hbytes 2 (by decide)) (hbytes 3 (by decide))
  have hfirst : (readReg rs1 s).toNat + 2 ≤ t.cfg.memSize := by rw [hcfg]; omega
  have hsecond : (readReg rs1 s + 2#32).toNat + 2 ≤ t.cfg.memSize := by rw [hcfg, htwo]; omega
  have hbits : (ramHalf t (readReg rs1 s).toNat).extractLsb' 0 2 = (readReg rs2 s).extractLsb' 0 2 := by
    rw [hlow, extractLsb'_low_half]
  refine ⟨hlow ▸ fetchHalf_ok heven hfirst, hhigh ▸ fetchHalf_ok (even_add_two heven) hsecond,
    fun hlong => ?word, fun hshort => ?half⟩
  case word =>
    have hfetch := fetch_word (s := { t with pc := readReg rs1 s }) heven hfirst (hbits.trans hlong) hsecond
    refine hfetch.trans (congrArg (fun w => Fetched.ok (.word w)) ?_)
    exact (congrArg₂ (· ++ ·) hhigh hlow).trans (append_halves _)
  case half =>
    have hfetch := fetch_half (s := { t with pc := readReg rs1 s }) heven hfirst (hbits.trans_ne hshort)
    exact hfetch.trans (congrArg (fun h => Fetched.ok (.half h)) hlow)

end Sys2Proof.Machine
end

section
/-! SUPPORT. The devices (60_exceptions.md sections 5 to 10): an access at an offset of a region is the device's, what
each device answers there, and the proofs of the statements. -/

namespace Sys2Proof.Machine

/-! ### An access in a device's region (R72, R75) -/

section
variable {s : State} {d : Device} {base : Word} {o : Nat}

theorem memRead_region (hc : ConfigOk s.cfg) (hb : base.toNat = regionBase s.cfg d)
    (hd : devicePresent s.cfg d = true) (ho : o < regionSize d) (hf : d ≠ .framebuffer) (n : Width) :
    memRead (base + BitVec.ofNat 32 o) n s = some (devRead d o n s) :=
  memRead_dev (classify_region hc _ hb hd ho hf)

theorem memWrite_region (hc : ConfigOk s.cfg) (hb : base.toNat = regionBase s.cfg d)
    (hd : devicePresent s.cfg d = true) (ho : o < regionSize d) (hf : d ≠ .framebuffer) (n : Width) (v : Word) :
    memWrite (base + BitVec.ofNat 32 o) n v s =
      some (resvSnoop (base.toNat + o) (widthBytes n) (devWrite d o n v s)) := by
  have hp : regionPlaced s.cfg d = true := by
    obtain ⟨-, -, -, hplaced, -⟩ := hc
    exact hplaced d (by cases d <;> decide)
  rw [memWrite_dev v (classify_region hc _ hb hd ho hf), toNat_region_add hb hp hd ho, hb]

end

section
variable {s : State} {o : Nat} (hc : ConfigOk s.cfg)
include hc

/-! ### The character port (R521 to R524) -/

theorem memRead_uart (ho : o < 256) (n : Width) :
    memRead (s.cfg.uartBase + BitVec.ofNat 32 o) n s = some (uartRead o n s) :=
  memRead_region (d := .uart) hc rfl rfl ho (by decide) n

theorem memRead_uart_base (n : Width) : memRead s.cfg.uartBase n s = some (uartRead 0 n s) := by
  have h := memRead_uart hc (o := 0) (by decide) n
  rwa [BitVec.add_zero] at h

theorem memWrite_uart (ho : o < 256) (n : Width) (v : Word) :
    memWrite (s.cfg.uartBase + BitVec.ofNat 32 o) n v s =
      some (resvSnoop (s.cfg.uartBase.toNat + o) (widthBytes n) (uartWrite o n v s)) :=
  memWrite_region (d := .uart) hc rfl rfl ho (by decide) n v

theorem memWrite_uart_base (n : Width) (v : Word) : memWrite s.cfg.uartBase n v s =
    some (resvSnoop s.cfg.uartBase.toNat (widthBytes n) (uartWrite 0 n v s)) := by
  have h := memWrite_uart hc (o := 0) (by decide) n v
  rwa [BitVec.add_zero] at h

/-! ### The timer (R530) -/

theorem memRead_timer (ho : o < 8) (n : Width) :
    memRead (s.cfg.timerBase + BitVec.ofNat 32 o) n s = some (timerRead o n s) :=
  memRead_region (d := .timer) hc rfl rfl ho (by decide) n

theorem memRead_timer_base (n : Width) : memRead s.cfg.timerBase n s = some (timerRead 0 n s) := by
  have h := memRead_timer hc (o := 0) (by decide) n
  rwa [BitVec.add_zero] at h

/-! ### System control (R546) -/

theorem memWrite_sysctl (ho : o < 4) (n : Width) (v : Word) :
    memWrite (s.cfg.sysctlBase + BitVec.ofNat 32 o) n v s =
      some (resvSnoop (s.cfg.sysctlBase.toNat + o) (widthBytes n) (sysctlWrite o n v s)) :=
  memWrite_region (d := .sysctl) hc rfl rfl ho (by decide) n v

theorem memWrite_sysctl_magic : memWrite s.cfg.sysctlBase .word s.cfg.sysctlMagic s =
    some (resvSnoop s.cfg.sysctlBase.toNat 4 (setQuit s)) := by
  have h := memWrite_sysctl hc (o := 0) (by decide) .word s.cfg.sysctlMagic
  rwa [BitVec.add_zero, sysctlWrite, if_pos ⟨rfl, rfl⟩] at h

/-! ### The keyboard (R540) -/

theorem memRead_keyboard (hk : s.cfg.kbdPresent = true) (ho : o < 12) (n : Width) :
    memRead (s.cfg.kbdBase + BitVec.ofNat 32 o) n s = some (kbdRead o n s) :=
  memRead_region (d := .keyboard) hc rfl hk ho (by decide) n

theorem memWrite_keyboard (hk : s.cfg.kbdPresent = true) (ho : o < 12) (n : Width) (v : Word) :
    memWrite (s.cfg.kbdBase + BitVec.ofNat 32 o) n v s =
      some (resvSnoop (s.cfg.kbdBase.toNat + o) (widthBytes n) (kbdWrite o s)) :=
  memWrite_region (d := .keyboard) hc rfl hk ho (by decide) n v

end

/-! ### What the character port answers -/

section
variable {s : State} {o : Nat} {n : Width}

theorem popUart_of_nil (h : s.dev.uartIn = []) : popUart s = s := by
  have htail : s.dev.uartIn.tail = s.dev.uartIn := by rw [h]; rfl
  rw [popUart, htail]

theorem uartStatus_eq : uartStatus s = if s.dev.uartIn = [] then 0x60#32 else 0x61#32 := by
  cases h : s.dev.uartIn with
  | nil => simp only [uartStatus, h]; rfl
  | cons b q => rw [uartStatus, h, if_neg (List.cons_ne_nil b q), List.isEmpty_cons]; rfl

theorem uartRead_silent (h : n ≠ .byte ∨ (o ≠ 0 ∧ o ≠ 5)) : uartRead o n s = (0#32, s) := by
  cases n with
  | byte =>
    obtain ⟨h0, h5⟩ := h.resolve_left fun hn => hn rfl
    simp only [uartRead, if_neg h0, if_neg h5]
  | half | word => rfl

theorem uartWrite_silent (h : n ≠ .byte ∨ o ≠ 0) (v : Word) : uartWrite o n v s = s := by
  cases n with
  | byte => exact if_neg (h.resolve_left fun hn => hn rfl)
  | half | word => rfl

end

/-- Settles O49: each access is the port's, at its offset. -/
theorem characterPort : Obligations.CharacterPort := by
  intro s hc
  refine ⟨fun hnil => ?empty, fun b q hcons => ?pops, fun bytes => rfl, ?status,
    fun o n ho hsilent => (memRead_uart hc ho n).trans (congrArg some (uartRead_silent hsilent)),
    fun v => memWrite_uart_base hc .byte v, fun o n v ho hsilent => ?ignored⟩
  case empty =>
    rw [memRead_uart_base hc, uartRead, if_pos rfl, popUart_of_nil hnil, uartData, hnil]
  case pops =>
    rw [memRead_uart_base hc, uartRead, if_pos rfl, popUart, uartData, hcons]
    rfl
  case status =>
    rw [memRead_uart hc (by decide), uartRead, if_neg (by decide), if_pos rfl, uartStatus_eq]
  case ignored => rw [memWrite_uart hc ho, uartWrite_silent hsilent]

/-! ### What the timer answers -/

theorem timerRead_silent {s : State} {o : Nat} {n : Width} (h : n ≠ .word ∨ (o ≠ 0 ∧ o ≠ 4)) :
    timerRead o n s = (0#32, s) := by
  cases n with
  | word =>
    obtain ⟨h0, h4⟩ := h.resolve_left fun hn => hn rfl
    simp only [timerRead, if_neg h0, if_neg h4]
  | byte | half => rfl

/-- Settles O50: each access is the timer's, at its offset. -/
theorem timerRegisters : Obligations.TimerRegisters := fun s hc =>
  ⟨onlyDraws_drawClock s, memRead_timer_base hc .word, memRead_timer hc (o := 4) (by decide) .word,
    fun _ n ho hsilent => (memRead_timer hc ho n).trans (congrArg some (timerRead_silent hsilent)),
    fun _ n v ho => memWrite_region (d := .timer) hc rfl rfl ho (by decide) n v⟩

/-! ### What the keyboard answers -/

section
variable {s : State} {n : Width}

theorem popKbd_of_nil (h : s.dev.kbdQ = []) : popKbd s = s := by
  have htail : s.dev.kbdQ.tail = s.dev.kbdQ := by rw [h]; rfl
  rw [popKbd, htail]

theorem lowBits_boolWord (n : Width) (b : Bool) : lowBits n (boolWord b) = boolWord b := by
  cases n <;> cases b <;> rfl

theorem lowBits_eq_ofNat (n : Width) (v : Word) : lowBits n v = BitVec.ofNat 32 (v.toNat % 2 ^ (8 * widthBytes n)) := by
  cases n with
  | byte | half => apply BitVec.eq_of_toNat_eq; simp [lowBits, widthBytes]
  | word => rw [widthBytes, Nat.mod_eq_of_lt v.isLt, BitVec.ofNat_toNat, BitVec.setWidth_eq]; rfl

theorem kbdRead_zero : kbdRead 0 n s = (if s.dev.kbdQ = [] then 0#32 else 1#32, s) := by
  rw [kbdRead, if_pos rfl, lowBits_boolWord]
  cases s.dev.kbdQ <;> rfl

theorem kbdRead_four_of_nil (h : s.dev.kbdQ = []) : kbdRead 4 n s = (0#32, s) := by
  rw [kbdRead, if_neg (by decide), if_pos rfl, popKbd_of_nil h, kbdData, h]
  exact congrArg (·, s) (lowBits_boolWord n false)

theorem kbdRead_four_of_cons {e : Word} {q : List Word} (h : s.dev.kbdQ = e :: q) : kbdRead 4 n s =
    (BitVec.ofNat 32 (e.toNat % 2 ^ (8 * widthBytes n)), { s with dev := { s.dev with kbdQ := q } }) := by
  rw [kbdRead, if_neg (by decide), if_pos rfl, popKbd, kbdData, h, lowBits_eq_ofNat]
  rfl

theorem kbdRead_silent {o : Nat} (h0 : o ≠ 0) (h4 : o ≠ 4) : kbdRead o n s = (0#32, s) := by
  rw [kbdRead, if_neg h0, if_neg h4]

end

/-- Settles O53: each access is the keyboard's, at its offset. -/
theorem keyboard : Obligations.Keyboard := by
  intro s hc hk
  have hread {o : Nat} {n : Width} {r : Word × State} (ho : o < 12) (h : kbdRead o n s = r) :
      memRead (s.cfg.kbdBase + BitVec.ofNat 32 o) n s = some r := (memRead_keyboard hc hk ho n).trans (congrArg some h)
  refine ⟨fun n => ?present, fun n hnil => hread (o := 4) (by decide) (kbdRead_four_of_nil hnil),
    fun n e q hcons => hread (o := 4) (by decide) (kbdRead_four_of_cons hcons),
    fun o n ho h0 h4 => hread ho (kbdRead_silent h0 h4),
    fun n v => memWrite_keyboard hc hk (o := 8) (by decide) n v, fun o n v ho h8 => ?ignored, fun e => rfl⟩
  case present =>
    have h := hread (o := 0) (n := n) (by decide) kbdRead_zero
    rwa [BitVec.add_zero] at h
  case ignored => rw [memWrite_keyboard hc hk ho, kbdWrite, if_neg h8]

/-! ### What system control does -/

theorem sysctlWrite_silent {s : State} {o : Nat} {n : Width} {v : Word}
    (h : n ≠ .word ∨ o ≠ 0 ∨ v ≠ s.cfg.sysctlMagic) : sysctlWrite o n v s = s := by
  cases n with
  | word =>
    have h := h.resolve_left fun hn => hn rfl
    exact if_neg fun ⟨h0, hv⟩ => h.elim (· h0) (· hv)
  | byte | half => rfl

/-- Settles O54: each access is system control's; the SW is such a write, and the flag it sets ends the next step. -/
theorem systemControl : Obligations.SystemControl := by
  intro s hc
  refine ⟨memWrite_sysctl_magic hc, fun o n v ho hsilent => ?ignored,
    fun o n ho => memRead_region (d := .sysctl) hc rfl rfl ho (by decide) n, fun rs1 rs2 hrun hbase hmagic => ?quits⟩
  case ignored => rw [memWrite_sysctl hc ho, sysctlWrite_silent hsilent]
  case quits =>
    have hwrite : memWrite (effAddr rs1 (sext 0#12) s) .word (readReg rs2 s) s =
        some (resvSnoop s.cfg.sysctlBase.toNat 4 (setQuit s)) := by
      rw [effAddr, storeAddr_zero, hbase, hmagic, memWrite_sysctl_magic hc]
    exact ⟨_, storeOp_some hwrite, hrun, rfl, step_quit hrun rfl⟩

/-! ### The framebuffer's bytes (R537) -/

/-- The bytes of a little-endian value are those it is made of. -/
theorem extractLsb'_leValue {n : Width} {k : Nat} (f : Nat → Byte) (hk : k < widthBytes n) :
    (leValue n f).extractLsb' (8 * k) 8 = f k := by
  cases n with
  | byte =>
    obtain rfl : k = 0 := Nat.lt_one_iff.mp hk
    exact (BitVec.setWidth_eq_extractLsb' (by decide)).symm.trans (setWidth_leValue_byte f)
  | half =>
    rw [widthBytes] at hk
    have hslice : (leValue .half f).extractLsb' (8 * k) 8 = ((leValue .half f).setWidth 16).extractLsb' (8 * k) 8 := by
      apply BitVec.eq_of_getLsbD_eq
      intro i hi
      have hin : 8 * k + i < 16 := by omega
      simp only [BitVec.getLsbD_extractLsb', BitVec.getLsbD_setWidth, hin, decide_true, Bool.true_and]
    rw [hslice, setWidth_leValue_half]
    interval_cases k
    · exact extract_low (f 1) (f 0)
    · exact extract_high (f 1) (f 0)
  | word =>
    have hpixel := pixelOf_pixelWord ⟨f 3, f 2, f 1, f 0⟩
    rw [widthBytes] at hk
    interval_cases k
    · exact congrArg Pixel.blue hpixel
    · exact congrArg Pixel.green hpixel
    · exact congrArg Pixel.red hpixel
    · exact congrArg Pixel.alpha hpixel

section
variable {s : State} {o b : Nat} {n : Width} (v : Word)

theorem sparseGet_fbWrite_stored {k : Nat} (hk : k < widthBytes n) (hin : o + k < fbSize) :
    sparseGet (fbWrite o n v s).dev.fb (o + k) = v.extractLsb' (8 * k) 8 := by
  have hlen : k < (leBytes n v).length := hk.trans_eq (leBytes_length n v).symm
  have hstored : o ≤ o + k ∧ o + k - o < ((leBytes n v).take (fbSize - o)).length := by
    rw [List.length_take]
    omega
  rw [fbWrite, sparseGet_writeBytes, dif_pos hstored, List.getElem_take]
  simp only [Nat.add_sub_cancel_left, getElem_leBytes n v hlen]

theorem sparseGet_fbWrite_kept (h : b < o ∨ o + widthBytes n ≤ b ∨ fbSize ≤ b) :
    sparseGet (fbWrite o n v s).dev.fb b = sparseGet s.dev.fb b := by
  have hkept : ¬ (o ≤ b ∧ b - o < ((leBytes n v).take (fbSize - o)).length) := by
    rw [List.length_take, leBytes_length]
    omega
  rw [fbWrite, sparseGet_writeBytes, dif_neg hkept]

end

/-- Settles O52: the access is the framebuffer's at its offset; its bytes one by one. -/
theorem framebuffer : Obligations.Framebuffer := fun _ _ _ _ hclass =>
  ⟨⟨_, memRead_dev hclass, fun _ hk => extractLsb'_leValue _ hk⟩,
   fun v => ⟨_, memWrite_dev v hclass, fun _ hk hin => sparseGet_fbWrite_stored v hk hin,
    fun _ hb => sparseGet_fbWrite_kept v hb, rfl, rfl⟩⟩

/-! ### The framebuffer's pixels (R536) -/

theorem zeroExtend_append {a b w : Nat} (x : BitVec a) (y : BitVec b) :
    (x ++ y).zeroExtend w = x.zeroExtend w <<< b ||| y.zeroExtend w := by
  apply BitVec.eq_of_getLsbD_eq
  intro i hi
  have hsub : i - b < w := by omega
  simp only [BitVec.getLsbD_setWidth, BitVec.getLsbD_append, BitVec.getLsbD_or, BitVec.getLsbD_shiftLeft, hi, hsub,
    decide_true, Bool.true_and]
  by_cases hlow : i < b
  · simp only [hlow, if_true, decide_true, Bool.not_true, Bool.false_and, Bool.false_or]
  · simp only [hlow, if_false, decide_false, Bool.not_false, Bool.true_and,
      BitVec.getLsbD_of_ge y i (Nat.le_of_not_lt hlow), Bool.or_false]

/-- The word of a pixel in the statement's terms. -/
theorem pixelWord_eq_or (p : Pixel) : pixelWord p =
    p.alpha.zeroExtend 32 <<< 24 ||| p.red.zeroExtend 32 <<< 16 ||| p.green.zeroExtend 32 <<< 8 |||
      p.blue.zeroExtend 32 := by
  have hword : pixelWord p = (p.alpha ++ p.red ++ p.green ++ p.blue).zeroExtend 32 := (BitVec.setWidth_eq _).symm
  rw [hword, zeroExtend_append, zeroExtend_append, zeroExtend_append]
  simp only [BitVec.shiftLeft_or_distrib, ← BitVec.shiftLeft_add, Nat.reduceAdd]

/-- A word from its four bytes. -/
theorem leValue_word_eq {f : Nat → Byte} {v : Word} (h : ∀ k, k < 4 → f k = v.extractLsb' (8 * k) 8) :
    leValue .word f = v := by
  rw [leValue, h 0 (by decide), h 1 (by decide), h 2 (by decide), h 3 (by decide), slice_join v 16 8 8,
    slice_join v 8 8 16, slice_join v 0 8 24]
  exact extract_all v

section
variable {s u : State} {px py qx qy : Nat}

theorem fbPixel_congr (h : ∀ k, k < 4 → fbByte u (pixelOffset qx qy + k) = fbByte s (pixelOffset qx qy + k)) :
    fbPixel u qx qy = fbPixel s qx qy := by
  simp only [fbPixel, leValue, h 0 (by decide), h 1 (by decide), h 2 (by decide), h 3 (by decide)]

theorem fbPixel_fbWrite_same (hx : px < fbW) (hy : py < fbH) (p : Pixel) :
    fbPixel (fbWrite (pixelOffset px py) .word (pixelWord p) s) px py = p := by
  have hin := pixelOffset_lt hx hy
  have hword : leValue .word (fun k => fbByte (fbWrite (pixelOffset px py) .word (pixelWord p) s)
      (pixelOffset px py + k)) = pixelWord p :=
    leValue_word_eq fun k hk => (if_pos (by omega)).trans (sparseGet_fbWrite_stored _ hk (by omega))
  rw [fbPixel, hword, pixelOf_pixelWord]

theorem fbPixel_fbWrite_other (hx : px < fbW) (hqx : qx < fbW) (hne : (qx, qy) ≠ (px, py)) (v : Word) :
    fbPixel (fbWrite (pixelOffset px py) .word v s) qx qy = fbPixel s qx qy := by
  have hapart := pixelOffset_apart hqx hx hne
  refine fbPixel_congr fun k hk => ?_
  have hkept : sparseGet (fbWrite (pixelOffset px py) .word v s).dev.fb (pixelOffset qx qy + k) =
      sparseGet s.dev.fb (pixelOffset qx qy + k) := sparseGet_fbWrite_kept v (by rw [widthBytes]; omega)
  simp only [fbByte, hkept]

end

/-- Settles O56: a pixel's bytes in address order, the word made of them, and pixels that share no byte. -/
theorem framebufferPixels : Obligations.FramebufferPixels := by
  refine ⟨rfl, fun s px py hx hy => ?_⟩
  obtain ⟨hblue, hgreen, hred, halpha⟩ := fbPixel_bytes s px py
  refine ⟨hblue, hgreen, hred, halpha, pixelOffset_lt hx hy, fun a hclass => ⟨?read, fun p => ?write⟩⟩
  case read =>
    rw [← pixelWord_eq_or, pixelWord_fbPixel]
    exact memRead_dev (n := .word) hclass
  case write =>
    rw [← pixelWord_eq_or]
    exact ⟨_, memWrite_dev (n := .word) _ hclass, fbPixel_fbWrite_same hx hy p,
      fun qx qy hqx _ hne => fbPixel_fbWrite_other hx hqx hne _⟩

end Sys2Proof.Machine
end

section
/-! SUPPORT. The environment call (46_system_csr.md; 60_exceptions.md R500 to R509) and the host's bytes (R581, R582):
which call a selector makes, what each call answers, the timespec in the statement's terms, and the proofs of the
statements. -/

namespace Sys2Proof.Machine

/-! ### The selectors (R501) -/

section
variable {s : State}

theorem exec_ecall_exit (h : readReg 17#5 s = 93#32) : exec .ecall s = envExit s := if_pos h

theorem exec_ecall_write (h : readReg 17#5 s = 64#32) : exec .ecall s = envWrite s := by
  show envCall s = _
  simp only [envCall, h]
  rfl

theorem exec_ecall_read (h : readReg 17#5 s = 63#32) : exec .ecall s = envRead s := by
  show envCall s = _
  simp only [envCall, h]
  rfl

theorem exec_ecall_brk (h : readReg 17#5 s = 214#32) : exec .ecall s = envBrk s := by
  show envCall s = _
  simp only [envCall, h]
  rfl

theorem exec_ecall_mmap (h : readReg 17#5 s = 222#32) : exec .ecall s = envMmap s := by
  show envCall s = _
  simp only [envCall, h]
  rfl

theorem exec_ecall_clock (h : readReg 17#5 s = 113#32) : exec .ecall s = envClock s := by
  show envCall s = _
  simp only [envCall, h]
  rfl

theorem exec_ecall_unknown (h : readReg 17#5 s ∉ [93#32, 64#32, 63#32, 214#32, 222#32, 113#32]) :
    exec .ecall s = envUnknown s := by
  simp only [List.mem_cons, List.not_mem_nil, or_false, not_or] at h
  obtain ⟨h1, h2, h3, h4, h5, h6⟩ := h
  show envCall s = _
  simp only [envCall, if_neg h1, if_neg h2, if_neg h3, if_neg h4, if_neg h5, if_neg h6]

/-! ### What a returning call does (R500) -/

theorem completesFrom_of_envReturn {u : State} {r : Word} (h : exec .ecall s = envReturn r u) (hpc : u.pc = s.pc) :
    CompletesFrom .ecall s u 10#5 r (s.pc + 4#32) :=
  completesFrom_of_retireWith (h.trans (by rw [envReturn, hpc]))

/-- The bytes of RAM after an instruction are those its other effects leave. -/
theorem memByte_of_completesFrom {i : Instr} {u : State} {rd : RegIdx} {v n : Word} (h : CompletesFrom i s u rd v n) :
    ∃ t, exec i s = .next t ∧ ∀ b, memByte t b = memByte u b := by
  obtain ⟨t, hexec, hw⟩ := h
  exact ⟨t, hexec, hw.bytes⟩

theorem bufferInRam_iff {buf : Word} {n : Nat} : bufferInRam s buf n = true ↔ buf.toNat + n ≤ s.cfg.memSize :=
  decide_eq_true_iff

end

/-- Settles O39: the two conditions of `envWrite`, met or not. -/
theorem environmentWrite : Obligations.EnvironmentWrite := by
  intro s hsel
  refine ⟨fun hfd hin => ?written, fun h1 h2 => ?descriptor, fun hout => ?buffer⟩
  case written =>
    exact completesFrom_of_envReturn ((exec_ecall_write hsel).trans (if_pos ⟨hfd, bufferInRam_iff.mpr hin⟩)) rfl
  all_goals refine completesFrom_of_envReturn ((exec_ecall_write hsel).trans (if_neg ?_)) rfl
  case descriptor => exact fun ⟨hfd, _⟩ => hfd.elim h1 h2
  case buffer => exact fun ⟨_, hin⟩ => Nat.not_le.mpr hout (bufferInRam_iff.mp hin)

/-- Settles O40: the two conditions of `envRead`, met or not; the host's bytes are stored after the draw. -/
theorem environmentRead : Obligations.EnvironmentRead := by
  intro s hsel
  refine ⟨fun hfd hin => ?read, fun hfd => ?descriptor, fun hout => ?buffer⟩
  case read =>
    have hstores := storesBytes_writeRam (drawRead s) (readReg 11#5 s).toNat (hostReadBytes (readReg 12#5 s).toNat s)
    have hcompletes := completesFrom_of_envReturn
      ((exec_ecall_read hsel).trans (if_pos ⟨hfd, bufferInRam_iff.mpr hin⟩)) rfl
    obtain ⟨t, hexec, hbytes⟩ := memByte_of_completesFrom hcompletes
    exact ⟨_, _, rfl, hostReadBytes_length .., onlyDraws_drawRead s, hstores, hcompletes, t, hexec,
      fun b hb => (hbytes b).trans (hstores.kept b hb)⟩
  all_goals refine completesFrom_of_envReturn ((exec_ecall_read hsel).trans (if_neg ?_)) rfl
  case descriptor => exact fun ⟨h0, _⟩ => hfd h0
  case buffer => exact fun ⟨_, hin⟩ => Nat.not_le.mpr hout (bufferInRam_iff.mp hin)

/-! ### mmap (R507) -/

/-- A region the host grants lies wholly in RAM. -/
theorem inRam_of_hostMmapBase {s : State} {len b : Word} (h : hostMmapBase len s = some b) :
    b.toNat + len.toNat ≤ s.cfg.memSize := by
  unfold hostMmapBase at h
  dsimp only at h
  split at h
  next offer _ =>
    by_cases hin : offer.toNat + len.toNat ≤ s.cfg.memSize
    · rw [if_pos hin] at h
      exact Option.some.inj h ▸ hin
    · rw [if_neg hin] at h
      cases h
  next => cases h

theorem completesFrom_mmap {s : State} {r : Option Word} (hsel : readReg 17#5 s = 222#32)
    (hr : hostMmapBase (readReg 11#5 s) s = r) :
    CompletesFrom .ecall s (drawMmap (readReg 11#5 s) r s) 10#5 (r.getD 0xFFFFFFFF#32) (s.pc + 4#32) := by
  subst hr
  refine completesFrom_of_envReturn ((exec_ecall_mmap hsel).trans ?_) rfl
  rw [envMmap]
  cases hostMmapBase (readReg 11#5 s) s <;> rfl

/-- Settles O41: each call by its selector. -/
theorem environmentOther : Obligations.EnvironmentOther := by
  refine ⟨fun s hsel => ⟨exec_ecall_exit hsel, fun n => ?exitStatus⟩, fun s hsel hzero => ?brkRead,
    fun s hsel hset => ?brkSet, fun s hsel => ⟨_, rfl, onlyDraws_drawMmap .., ?mmapBytes, fun b hb => ?mmapGranted,
    fun hnone => ?mmapRefused⟩, fun s hsel => completesFrom_of_envReturn (exec_ecall_unknown hsel) rfl⟩
  case exitStatus => exact Iff.rfl
  case brkRead => exact completesFrom_of_envReturn ((exec_ecall_brk hsel).trans (if_pos hzero)) rfl
  case brkSet => exact completesFrom_of_envReturn ((exec_ecall_brk hsel).trans (if_neg hset)) rfl
  case mmapBytes =>
    obtain ⟨t, hexec, hbytes⟩ := memByte_of_completesFrom (completesFrom_mmap hsel rfl)
    exact ⟨t, hexec, hbytes⟩
  case mmapGranted => exact hb ▸ ⟨inRam_of_hostMmapBase hb, completesFrom_mmap hsel hb⟩
  case mmapRefused => exact hnone ▸ completesFrom_mmap hsel hnone

/-! ### The timespec in the statement's terms (R508) -/

section
variable {w s l : Nat} (v : Nat)

theorem extractLsb'_ofNat_of_le (h : s + l ≤ w) : (BitVec.ofNat w v).extractLsb' s l = BitVec.ofNat l (v >>> s) := by
  apply BitVec.eq_of_getLsbD_eq
  intro i hi
  have hs : s + i < w := by omega
  simp only [BitVec.getLsbD_extractLsb', BitVec.getLsbD_ofNat, Nat.testBit_shiftRight, hi, hs, decide_true,
    Bool.true_and]

theorem littleEndian_add (m n : Nat) :
    littleEndian (m + n) v = littleEndian m v ++ littleEndian n (v / 256 ^ m) := by
  simp only [littleEndian, List.range_add, List.map_append, List.map_map, Nat.div_div_eq_div_mul, ← pow_add,
    Function.comp_def]

theorem le32_ofNat : le32 (BitVec.ofNat 32 v) = littleEndian 4 v := by
  refine List.ext_getElem rfl fun k hk _ => ?_
  have hk4 : k < 4 := hk
  have hpow : 2 ^ (8 * k) = 256 ^ k := pow_mul 2 8 k
  have hin : 8 * k + 8 ≤ 32 := by omega
  simp only [le32, getElem_leBytes, littleEndian, List.getElem_map, List.getElem_range,
    extractLsb'_ofNat_of_le v hin, Nat.shiftRight_eq_div_pow, hpow]

theorem le64_ofNat : le64 (BitVec.ofNat 64 v) = littleEndian 8 v := by
  have hlow : (BitVec.ofNat 64 v).extractLsb' 0 32 = BitVec.ofNat 32 v := extractLsb'_ofNat_of_le v (by decide)
  have hhigh : (BitVec.ofNat 64 v).extractLsb' 32 32 = BitVec.ofNat 32 (v / 256 ^ 4) := by
    rw [extractLsb'_ofNat_of_le v (by decide), Nat.shiftRight_eq_div_pow]
    norm_num
  rw [le64, hlow, hhigh, le32_ofNat, le32_ofNat]
  exact (littleEndian_add v 4 4).symm

end

theorem timespecBytes_ts32 (t : Dword) : timespecBytes .ts32 t =
    littleEndian 4 (t.toNat / 1000000) ++ littleEndian 4 (t.toNat % 1000000 * 1000) := by
  rw [← le32_ofNat, ← le32_ofNat]
  exact congrArg (le32 · ++ _) (extractLsb'_ofNat_of_le _ (by decide))

theorem timespecBytes_ts64 (t : Dword) : timespecBytes .ts64 t =
    littleEndian 8 (t.toNat / 1000000) ++ littleEndian 4 (t.toNat % 1000000 * 1000) ++ littleEndian 4 0 := by
  rw [← le64_ofNat, ← le32_ofNat, ← le32_ofNat]
  rfl

section
variable {s : State} (hsel : readReg 17#5 s = 113#32)
include hsel

/-- A timespec that fits is stored after the draw (R508). -/
theorem completesFrom_clock_of_fits
    (h : (readReg 11#5 s).toNat + (timespecBytes s.cfg.timespec (timerValue s)).length ≤ s.cfg.memSize) :
    CompletesFrom .ecall s
      (writeRam (readReg 11#5 s).toNat (timespecBytes s.cfg.timespec (timerValue s)) (drawClock s)) 10#5 0#32
      (s.pc + 4#32) := by
  refine completesFrom_of_envReturn ((exec_ecall_clock hsel).trans ?_) rfl
  exact congrArg (envReturn 0#32) (if_pos (bufferInRam_iff.mpr h))

/-- Nothing of a timespec that does not fit is stored (R508). -/
theorem completesFrom_clock_of_lt
    (h : s.cfg.memSize < (readReg 11#5 s).toNat + (timespecBytes s.cfg.timespec (timerValue s)).length) :
    CompletesFrom .ecall s (drawClock s) 10#5 0#32 (s.pc + 4#32) := by
  refine completesFrom_of_envReturn ((exec_ecall_clock hsel).trans ?_) rfl
  exact congrArg (envReturn 0#32) (if_neg (mt bufferInRam_iff.mp (Nat.not_le.mpr h)))

end

/-- Settles O42: the timespec fits or not; its bytes by the layout. -/
theorem environmentClock : Obligations.EnvironmentClock := by
  intro s hsel
  refine ⟨timespecBytes s.cfg.timespec (timerValue s), fun h32 => ?ts32, fun h64 => ?ts64,
    onlyDraws_drawClock s, ?bytes, fun hin => ⟨_, storesBytes_writeRam .., completesFrom_clock_of_fits hsel hin⟩,
    completesFrom_clock_of_lt hsel⟩
  case ts32 => rw [h32, timespecBytes_ts32]
  case ts64 => rw [h64, timespecBytes_ts64]
  case bytes =>
    rcases Nat.lt_or_ge s.cfg.memSize
      ((readReg 11#5 s).toNat + (timespecBytes s.cfg.timespec (timerValue s)).length) with hout | hin
    · obtain ⟨t, hexec, hbytes⟩ := memByte_of_completesFrom (completesFrom_clock_of_lt hsel hout)
      exact ⟨t, hexec, fun b _ => hbytes b⟩
    · obtain ⟨t, hexec, hbytes⟩ := memByte_of_completesFrom (completesFrom_clock_of_fits hsel hin)
      refine ⟨t, hexec, fun b hb => (hbytes b).trans ((storesBytes_writeRam ..).kept b ?_)⟩
      exact hb.imp_right fun h => h.resolve_right (Nat.not_lt.mpr hin)

/-! ### The host's bytes (R581, R582) -/

/-- Settles O55: the one condition of each, met or not. -/
theorem hostBytes : Obligations.HostBytes := by
  intro s a
  refine ⟨fun r => rfl, fun hin => if_pos hin, fun hout => if_neg (Nat.not_lt.mpr hout), fun b hin => ?written,
    fun b hout => if_neg (Nat.not_lt.mpr hout)⟩
  rw [hostWriteByte, if_pos hin]
  exact storesBytes_writeRam s a.toNat [b]

end Sys2Proof.Machine
end
